-- ==== Sys2Proof/Word.lean ====
section
/-! DEFINITION. The two value widths of the block (00_scope.md R8, R10): a byte and a pair value. -/

namespace Sys2Proof

/-- An 8-bit value: a general register, the packed flags byte, an instruction code (R8, R10 `u8`). -/
abbrev Byte := BitVec 8

/-- A 16-bit pair value (R8, R10 `u16`). -/
abbrev PairWord := BitVec 16

end Sys2Proof
end

