-- ==== Sys2Proof/Syntax.lean ====
section
/-! DEFINITION. The instructions of the block: the operand selectors, the four instruction shapes
(30_encoding.md R49), and `Instr`, one constructor for each row of opcode_table.json (R56). -/

namespace Sys2Proof

/-- R8: the register selectors (R49, 10_state.md R15). -/
inductive R8
  | a | b | c | d | e | h | l
  deriving DecidableEq, Repr

/-- P16: the pair selectors of ADD HL,rr (R49, R32). -/
inductive P16
  | bc | de | hl
  deriving DecidableEq, Repr

/-- The operation kinds of an 8-bit two-operand instruction (R49). -/
inductive AluOp
  | add | adc | sub | sbc | and | xor | or | cp
  deriving DecidableEq, Repr

/-- The spec's Instruction value (R49): operation kind and operand selector. Every combination is
valid. `Instr.form` and `Instr.ofForm` (Decode.lean) relate it to the rows of the opcode table. -/
inductive Form
  | op8 (kind : AluOp) (r : R8)
  | inc (r : R8)
  | dec (r : R8)
  | addHl (p : P16)
  deriving DecidableEq, Repr

/-- The 73 instructions of the opcode map (R56), each a row of opcode_table.json. -/
inductive Instr
  | addAB | addAC | addAD | addAE | addAH | addAL | addAA
  | adcAB | adcAC | adcAD | adcAE | adcAH | adcAL | adcAA
  | subB | subC | subD | subE | subH | subL | subA
  | sbcAB | sbcAC | sbcAD | sbcAE | sbcAH | sbcAL | sbcAA
  | andB | andC | andD | andE | andH | andL | andA
  | xorB | xorC | xorD | xorE | xorH | xorL | xorA
  | orB | orC | orD | orE | orH | orL | orA
  | cpB | cpC | cpD | cpE | cpH | cpL | cpA
  | incB | incC | incD | incE | incH | incL | incA
  | decB | decC | decD | decE | decH | decL | decA
  | addHlBc | addHlDe | addHlHl
  deriving DecidableEq, Repr

end Sys2Proof
end

