-- ==== Sys2Proof/WellFormed.lean ====
section
/-! DEFINITION. What is checked of an instruction before it is meaningful. An `Instr` needs no check:
its selectors are closed enumerations (30_encoding.md R49). What can be ill-formed is a CODE: a byte
whose fixed bits match no format of R50, or whose selector field names nothing in this block (R51,
R53). These checks are written from the formats' fixed bits alone, apart from the decoder. -/

namespace Sys2Proof

/-- R51: the register field names a register of this block. -/
def regFieldOk (rrr : BitVec 3) : Bool := rrr != 0b110#3

/-- R53: the pair field names a pair of this block. -/
def pairFieldOk (pp : BitVec 2) : Bool := pp != 0b11#2

/-- R50, format ALU8: `10 ooo rrr`, with a register in `rrr`. -/
def alu8Ok (code : Byte) : Bool :=
  code &&& 0b11000000#8 == 0b10000000#8 && regFieldOk (code.extractLsb 2 0)

/-- R50, format INCDEC: `00 rrr 10d`, with a register in `rrr`. -/
def incDecOk (code : Byte) : Bool :=
  code &&& 0b11000110#8 == 0b00000100#8 && regFieldOk (code.extractLsb 5 3)

/-- R50, format ADD16: `00 pp 1001`, with a pair in `pp`. -/
def add16Ok (code : Byte) : Bool :=
  code &&& 0b11001111#8 == 0b00001001#8 && pairFieldOk (code.extractLsb 5 4)

/-- A code of the instruction port is well formed when one of the three formats admits it; every other
code is unimplemented (R57). -/
def codeOk (code : Byte) : Bool := alu8Ok code || incDecOk code || add16Ok code

/-- R49: every combination of shape and selector is a valid Instruction, so every `Instr` is well formed. -/
def Instr.wellFormed (_ : Instr) : Bool := true

end Sys2Proof
end

