-- ==== Sys2Proof/Decode.lean ====
section
/-! DEFINITION. Decoding an instruction code (30_encoding.md R50 to R58), total on every byte, and
encoding an instruction from the same formats. Decoding reads no state (R55). -/

namespace Sys2Proof

/-- `v[hi:lo]` as an unsigned number (00_scope.md R10). -/
def bits (v : Byte) (hi lo : Nat) : Nat := (v.extractLsb hi lo).toNat

/-- The register field `rrr` (R51); 110 names no register of this block. -/
def regOfField (rrr : Nat) : Option R8 :=
  match rrr with
  | 0 => some .b
  | 1 => some .c
  | 2 => some .d
  | 3 => some .e
  | 4 => some .h
  | 5 => some .l
  | 7 => some .a
  | _ => none

/-- The operation field `ooo` of format ALU8 (R52), a three-bit number. -/
def opOfField (ooo : Nat) : AluOp :=
  match ooo with
  | 0 => .add
  | 1 => .adc
  | 2 => .sub
  | 3 => .sbc
  | 4 => .and
  | 5 => .xor
  | 6 => .or
  | _ => .cp

/-- The pair field `pp` of format ADD16 (R53); 11 names no pair of this block. -/
def pairOfField (pp : Nat) : Option P16 :=
  match pp with
  | 0 => some .bc
  | 1 => some .de
  | 2 => some .hl
  | _ => none

/-- The decode function of R55, to the spec's Instruction value; `none` is `UNIMPL`. -/
def decodeForm (code : Byte) : Option Form :=
  if bits code 7 6 = 0b10 then
    (regOfField (bits code 2 0)).map (Form.op8 (opOfField (bits code 5 3)))
  else if bits code 7 6 = 0b00 ∧ bits code 2 1 = 0b10 then
    (regOfField (bits code 5 3)).map (if bits code 0 0 = 0 then Form.inc else Form.dec)
  else if bits code 7 6 = 0b00 ∧ bits code 3 0 = 0b1001 then
    (pairOfField (bits code 5 4)).map Form.addHl
  else none

/-- The row of the opcode table that an Instruction value is (R56). -/
def Instr.ofForm (f : Form) : Instr :=
  match f with
  | .op8 .add .b => .addAB
  | .op8 .add .c => .addAC
  | .op8 .add .d => .addAD
  | .op8 .add .e => .addAE
  | .op8 .add .h => .addAH
  | .op8 .add .l => .addAL
  | .op8 .add .a => .addAA
  | .op8 .adc .b => .adcAB
  | .op8 .adc .c => .adcAC
  | .op8 .adc .d => .adcAD
  | .op8 .adc .e => .adcAE
  | .op8 .adc .h => .adcAH
  | .op8 .adc .l => .adcAL
  | .op8 .adc .a => .adcAA
  | .op8 .sub .b => .subB
  | .op8 .sub .c => .subC
  | .op8 .sub .d => .subD
  | .op8 .sub .e => .subE
  | .op8 .sub .h => .subH
  | .op8 .sub .l => .subL
  | .op8 .sub .a => .subA
  | .op8 .sbc .b => .sbcAB
  | .op8 .sbc .c => .sbcAC
  | .op8 .sbc .d => .sbcAD
  | .op8 .sbc .e => .sbcAE
  | .op8 .sbc .h => .sbcAH
  | .op8 .sbc .l => .sbcAL
  | .op8 .sbc .a => .sbcAA
  | .op8 .and .b => .andB
  | .op8 .and .c => .andC
  | .op8 .and .d => .andD
  | .op8 .and .e => .andE
  | .op8 .and .h => .andH
  | .op8 .and .l => .andL
  | .op8 .and .a => .andA
  | .op8 .xor .b => .xorB
  | .op8 .xor .c => .xorC
  | .op8 .xor .d => .xorD
  | .op8 .xor .e => .xorE
  | .op8 .xor .h => .xorH
  | .op8 .xor .l => .xorL
  | .op8 .xor .a => .xorA
  | .op8 .or .b => .orB
  | .op8 .or .c => .orC
  | .op8 .or .d => .orD
  | .op8 .or .e => .orE
  | .op8 .or .h => .orH
  | .op8 .or .l => .orL
  | .op8 .or .a => .orA
  | .op8 .cp .b => .cpB
  | .op8 .cp .c => .cpC
  | .op8 .cp .d => .cpD
  | .op8 .cp .e => .cpE
  | .op8 .cp .h => .cpH
  | .op8 .cp .l => .cpL
  | .op8 .cp .a => .cpA
  | .inc .b => .incB
  | .inc .c => .incC
  | .inc .d => .incD
  | .inc .e => .incE
  | .inc .h => .incH
  | .inc .l => .incL
  | .inc .a => .incA
  | .dec .b => .decB
  | .dec .c => .decC
  | .dec .d => .decD
  | .dec .e => .decE
  | .dec .h => .decH
  | .dec .l => .decL
  | .dec .a => .decA
  | .addHl .bc => .addHlBc
  | .addHl .de => .addHlDe
  | .addHl .hl => .addHlHl

/-- The Instruction value (R49) that a row of the opcode table is. -/
def Instr.form (i : Instr) : Form :=
  match i with
  | .addAB => .op8 .add .b
  | .addAC => .op8 .add .c
  | .addAD => .op8 .add .d
  | .addAE => .op8 .add .e
  | .addAH => .op8 .add .h
  | .addAL => .op8 .add .l
  | .addAA => .op8 .add .a
  | .adcAB => .op8 .adc .b
  | .adcAC => .op8 .adc .c
  | .adcAD => .op8 .adc .d
  | .adcAE => .op8 .adc .e
  | .adcAH => .op8 .adc .h
  | .adcAL => .op8 .adc .l
  | .adcAA => .op8 .adc .a
  | .subB => .op8 .sub .b
  | .subC => .op8 .sub .c
  | .subD => .op8 .sub .d
  | .subE => .op8 .sub .e
  | .subH => .op8 .sub .h
  | .subL => .op8 .sub .l
  | .subA => .op8 .sub .a
  | .sbcAB => .op8 .sbc .b
  | .sbcAC => .op8 .sbc .c
  | .sbcAD => .op8 .sbc .d
  | .sbcAE => .op8 .sbc .e
  | .sbcAH => .op8 .sbc .h
  | .sbcAL => .op8 .sbc .l
  | .sbcAA => .op8 .sbc .a
  | .andB => .op8 .and .b
  | .andC => .op8 .and .c
  | .andD => .op8 .and .d
  | .andE => .op8 .and .e
  | .andH => .op8 .and .h
  | .andL => .op8 .and .l
  | .andA => .op8 .and .a
  | .xorB => .op8 .xor .b
  | .xorC => .op8 .xor .c
  | .xorD => .op8 .xor .d
  | .xorE => .op8 .xor .e
  | .xorH => .op8 .xor .h
  | .xorL => .op8 .xor .l
  | .xorA => .op8 .xor .a
  | .orB => .op8 .or .b
  | .orC => .op8 .or .c
  | .orD => .op8 .or .d
  | .orE => .op8 .or .e
  | .orH => .op8 .or .h
  | .orL => .op8 .or .l
  | .orA => .op8 .or .a
  | .cpB => .op8 .cp .b
  | .cpC => .op8 .cp .c
  | .cpD => .op8 .cp .d
  | .cpE => .op8 .cp .e
  | .cpH => .op8 .cp .h
  | .cpL => .op8 .cp .l
  | .cpA => .op8 .cp .a
  | .incB => .inc .b
  | .incC => .inc .c
  | .incD => .inc .d
  | .incE => .inc .e
  | .incH => .inc .h
  | .incL => .inc .l
  | .incA => .inc .a
  | .decB => .dec .b
  | .decC => .dec .c
  | .decD => .dec .d
  | .decE => .dec .e
  | .decH => .dec .h
  | .decL => .dec .l
  | .decA => .dec .a
  | .addHlBc => .addHl .bc
  | .addHlDe => .addHl .de
  | .addHlHl => .addHl .hl

/-- R55: every byte decodes to an instruction or is unimplemented (`none`, R57). -/
def decode (code : Byte) : Option Instr := (decodeForm code).map Instr.ofForm

/-! ### Encoding -/

/-- The register field of a register (R51). -/
def regField (r : R8) : BitVec 3 :=
  match r with
  | .b => 0b000#3
  | .c => 0b001#3
  | .d => 0b010#3
  | .e => 0b011#3
  | .h => 0b100#3
  | .l => 0b101#3
  | .a => 0b111#3

/-- The operation field of an operation (R52). -/
def opField (k : AluOp) : BitVec 3 :=
  match k with
  | .add => 0b000#3
  | .adc => 0b001#3
  | .sub => 0b010#3
  | .sbc => 0b011#3
  | .and => 0b100#3
  | .xor => 0b101#3
  | .or => 0b110#3
  | .cp => 0b111#3

/-- The pair field of a pair (R53). -/
def pairField (p : P16) : BitVec 2 :=
  match p with
  | .bc => 0b00#2
  | .de => 0b01#2
  | .hl => 0b10#2

/-- The code of an Instruction value, by the three formats of R50. -/
def encodeForm (f : Form) : Byte :=
  match f with
  | .op8 k r => 0b10#2 ++ opField k ++ regField r
  | .inc r => 0b00#2 ++ regField r ++ 0b100#3
  | .dec r => 0b00#2 ++ regField r ++ 0b101#3
  | .addHl p => 0b00#2 ++ pairField p ++ 0b1001#4

/-- The one code of an instruction (R60). -/
def encode (i : Instr) : Byte := encodeForm i.form

/-! ### The opcode map -/

/-- Row 0 of the opcode map (R56). -/
def opcodeRow0 : List (Byte × Instr) :=
  [(0x04#8, .incB), (0x05#8, .decB), (0x09#8, .addHlBc), (0x0C#8, .incC),
   (0x0D#8, .decC)]

/-- Row 1 of the opcode map (R56). -/
def opcodeRow1 : List (Byte × Instr) :=
  [(0x14#8, .incD), (0x15#8, .decD), (0x19#8, .addHlDe), (0x1C#8, .incE),
   (0x1D#8, .decE)]

/-- Row 2 of the opcode map (R56). -/
def opcodeRow2 : List (Byte × Instr) :=
  [(0x24#8, .incH), (0x25#8, .decH), (0x29#8, .addHlHl), (0x2C#8, .incL),
   (0x2D#8, .decL)]

/-- Row 3 of the opcode map (R56). -/
def opcodeRow3 : List (Byte × Instr) :=
  [(0x3C#8, .incA), (0x3D#8, .decA)]

/-- Row 8 of the opcode map (R56). -/
def opcodeRow8 : List (Byte × Instr) :=
  [(0x80#8, .addAB), (0x81#8, .addAC), (0x82#8, .addAD), (0x83#8, .addAE),
   (0x84#8, .addAH), (0x85#8, .addAL), (0x87#8, .addAA), (0x88#8, .adcAB),
   (0x89#8, .adcAC), (0x8A#8, .adcAD), (0x8B#8, .adcAE), (0x8C#8, .adcAH),
   (0x8D#8, .adcAL), (0x8F#8, .adcAA)]

/-- Row 9 of the opcode map (R56). -/
def opcodeRow9 : List (Byte × Instr) :=
  [(0x90#8, .subB), (0x91#8, .subC), (0x92#8, .subD), (0x93#8, .subE),
   (0x94#8, .subH), (0x95#8, .subL), (0x97#8, .subA), (0x98#8, .sbcAB),
   (0x99#8, .sbcAC), (0x9A#8, .sbcAD), (0x9B#8, .sbcAE), (0x9C#8, .sbcAH),
   (0x9D#8, .sbcAL), (0x9F#8, .sbcAA)]

/-- Row A of the opcode map (R56). -/
def opcodeRowA : List (Byte × Instr) :=
  [(0xA0#8, .andB), (0xA1#8, .andC), (0xA2#8, .andD), (0xA3#8, .andE),
   (0xA4#8, .andH), (0xA5#8, .andL), (0xA7#8, .andA), (0xA8#8, .xorB),
   (0xA9#8, .xorC), (0xAA#8, .xorD), (0xAB#8, .xorE), (0xAC#8, .xorH),
   (0xAD#8, .xorL), (0xAF#8, .xorA)]

/-- Row B of the opcode map (R56). -/
def opcodeRowB : List (Byte × Instr) :=
  [(0xB0#8, .orB), (0xB1#8, .orC), (0xB2#8, .orD), (0xB3#8, .orE),
   (0xB4#8, .orH), (0xB5#8, .orL), (0xB7#8, .orA), (0xB8#8, .cpB),
   (0xB9#8, .cpC), (0xBA#8, .cpD), (0xBB#8, .cpE), (0xBC#8, .cpH),
   (0xBD#8, .cpL), (0xBF#8, .cpA)]

/-- The opcode map of R56 as the spec lists it: a second account of the encoding, written out code by
code. `decode` does not use it. -/
def opcodeMap : List (Byte × Instr) :=
  opcodeRow0 ++ opcodeRow1 ++ opcodeRow2 ++ opcodeRow3 ++
    opcodeRow8 ++ opcodeRow9 ++ opcodeRowA ++ opcodeRowB

/-! ### The host's numbering -/

/-- The code in the low `nbits` bits of `w`: an instruction is its first byte and has no other (R48,
R58), so bits from 8 up are not part of it. -/
def tableCode (nbits w : Nat) : Byte := BitVec.ofNat 8 (w % 2 ^ nbits)

/-- What the decoder reads from an opcode-table word. -/
def decodeTableWord (nbits w : Nat) : Option Instr := decode (tableCode nbits w)

end Sys2Proof
end

