-- ==== Sys2Proof/Config.lean ====
section
/-! DEFINITION. The three open parameters of the block (00_scope.md R9), fixed when it is built
(10_state.md R30). They are arguments of the model, not constants of it: the state carries one
`Config`, no step changes it, and a claim over every state is a claim for every value of each
parameter (notes/assumptions/1.md). -/

namespace Sys2Proof

/-- `ADDHL_Z_MODE` (R9, D4): whether ADD HL,rr writes Z from its 16-bit result or leaves it. -/
inductive AddHlZMode
  | fromResult
  | preserve
  deriving DecidableEq, Repr

/-- `SUB_H_RULE` (R9, D6): the half-carry formula of SUB, SBC and CP. -/
inductive SubHRule
  | directBorrow
  | wrappedCompare
  deriving DecidableEq, Repr

/-- The open parameters (R9). -/
structure Config where
  addHlZMode : AddHlZMode
  /-- `AND_H_VALUE` (R9, D5): the value AND writes to H. -/
  andHValue : Bool
  subHRule : SubHRule
  deriving DecidableEq, Repr

/-- The default of every parameter, which every worked example of the spec uses (R9). -/
def Config.default : Config where
  addHlZMode := .fromResult
  andHValue := false
  subHRule := .directBorrow

end Sys2Proof
end

