-- ==== Sys2Proof/Machine/State.lean ====
section
/-! DEFINITION. The state of the block (10_state.md R28), the transactions on its interface (10_state.md
section 5), and the reasons a step can stop. The block has no memory, no program counter and no mode
(R31, R39, R92), so the state has none. -/

namespace Sys2Proof.Machine

/-- The flags register F (R17): four independent booleans, and nothing else. -/
structure Flags where
  z : Bool
  n : Bool
  h : Bool
  c : Bool
  deriving DecidableEq, Repr

/-- The complete architectural state of the block, the tuple S of R28: seven 8-bit registers (R15) and
the flags register (R17). -/
structure RegFile where
  a : Byte
  b : Byte
  c : Byte
  d : Byte
  e : Byte
  h : Byte
  l : Byte
  f : Flags
  deriving DecidableEq, Repr

/-- The four register pairs (R23): views, not storage. -/
inductive Pair
  | af | bc | de | hl
  deriving DecidableEq, Repr

/-- The low slot of a pair (R23): a plain byte or the flags register. -/
inductive LowSlot
  | plain (r : R8)
  | flags
  deriving DecidableEq, Repr

/-- The transactions of the block's interface (10_state.md section 5), each atomic (R43). -/
inductive Transaction
  | reset
  | exec (code : Byte)
  | readR8 (r : R8)
  | writeR8 (r : R8) (v : Byte)
  | readF
  | writeF (b : Byte)
  | readPair (p : Pair)
  | writePair (p : Pair) (v : PairWord)
  deriving DecidableEq, Repr

/-- The output of a transaction (10_state.md section 5, column "outputs"). The other status of EXEC,
`UNIMPLEMENTED`, is a fault (R86) and so is no reply. -/
inductive Reply
  /-- A transaction without outputs, or none performed yet. -/
  | nothing
  /-- EXEC returned `OK` (R86). -/
  | ok
  /-- The value of `READ_R8` or `READ_F`. -/
  | byte (v : Byte)
  /-- The value of `READ_PAIR`. -/
  | pair (v : PairWord)
  deriving DecidableEq, Repr

/-- The block, and beside it what the model needs to run it. -/
structure State where
  /-- The block's whole state (R28). -/
  regs : RegFile
  /-- The open parameters the block was built with (R9, R30): the model's own field, which no step
  writes (notes/assumptions/1.md). -/
  params : Config
  /-- The transactions issued and not yet performed, oldest first (R44): the model's own field, the
  driver's stream (R71, notes/assumptions/2.md). -/
  queue : List Transaction
  /-- The stream position: how many EXEC transactions returned OK (R71; "not block state", R31): the
  model's own field (notes/assumptions/4.md). -/
  pos : Nat
  /-- The output of the last transaction performed: the model's own field
  (notes/assumptions/5.md). -/
  reply : Reply
  deriving DecidableEq, Repr

/-- The reasons a step can fault. -/
inductive Fault
  /-- Raised by `EXEC(code)` alone, for a code outside the opcode map (R57, R84): the fault
  (Unimplemented, P[i], i) of R71, with the register file it leaves, which is the one before the
  transaction. Safe: the spec itself makes the run stop here (R86, notes/assumptions/6.md). -/
  | unimplemented (code : Byte) (pos : Nat) (left : RegFile)
  deriving DecidableEq, Repr

/-- The reasons a step can be refused. No step of this model is. -/
inductive Refusal
  /-- An instruction without a meaning yet, raised by `exec`'s arm for it: there is none. Safe. -/
  | notModelled (mnemonic : String)
  deriving DecidableEq, Repr

/-- Every register zero and every flag false (R38, R98). -/
def RegFile.reset : RegFile where
  a := 0x00#8
  b := 0x00#8
  c := 0x00#8
  d := 0x00#8
  e := 0x00#8
  h := 0x00#8
  l := 0x00#8
  f := ⟨false, false, false, false⟩

/-- The machine right after reset: the block as R38 and R98 say, with the default parameters of R9,
nothing issued yet, the stream position 0 (R71), and no output yet (notes/assumptions/1.md, 2.md, 4.md,
5.md). -/
def State.reset : State where
  regs := RegFile.reset
  params := Config.default
  queue := []
  pos := 0
  reply := .nothing

end Sys2Proof.Machine
end

