-- ==== Sys2Proof/Machine/Flags.lean ====
section
/-! DEFINITION. The flags register's packed form (10_state.md R19 to R21), the flag helper functions of
40_executor.md R67 to R70, and the flags each operation of the policy table produces
(41_add.md to 44_incdec.md). The helpers compute on natural numbers, as the spec's formulas do
(00_scope.md R11). -/

namespace Sys2Proof.Machine

/-- `bit(b)` (R10). -/
def bit (b : Bool) : Nat := if b then 1 else 0

/-- A flag as one bit of the packed byte (R10, R19). -/
def flagBit (b : Bool) : BitVec 1 := if b then 1#1 else 0#1

/-- The flags encoder (R19, R20): z n h c in bits 7 to 4, bits 3 to 0 zero. -/
def encodeF (f : Flags) : Byte := flagBit f.z ++ flagBit f.n ++ flagBit f.h ++ flagBit f.c ++ 0x0#4

/-- The flags decoder (R21): bits 3 to 0 are ignored. -/
def decodeF (b : Byte) : Flags where
  z := b.getLsbD 7
  n := b.getLsbD 6
  h := b.getLsbD 5
  c := b.getLsbD 4

/-- The low nibble of a byte, `v & 0xF` (glossary, "Nibble"). -/
def nibble (v : Byte) : Nat := v.toNat &&& 0xF

/-- R67, 8 bits. -/
def zero8 (r : Byte) : Bool := r == 0x00#8

/-- R67, 16 bits. -/
def zero16 (r : PairWord) : Bool := r == 0x0000#16

/-- R68: carry out of bit 3, on the true operand nibbles. -/
def hcAdd8 (a b : Byte) (cin : Nat) : Bool := decide (nibble a + nibble b + cin > 0xF)

/-- R68: carry out of bit 7. -/
def cAdd8 (a b : Byte) (cin : Nat) : Bool := decide (a.toNat + b.toNat + cin > 0xFF)

/-- R68: carry out of bit 11. -/
def hcAdd16 (a b : PairWord) : Bool := decide ((a.toNat &&& 0xFFF) + (b.toNat &&& 0xFFF) > 0xFFF)

/-- R68: carry out of bit 15. -/
def cAdd16 (a b : PairWord) : Bool := decide (a.toNat + b.toNat > 0xFFFF)

/-- R69: borrow out of bit 7. -/
def cSub8 (a b : Byte) (cin : Nat) : Bool := decide (a.toNat < b.toNat + cin)

/-- R69: the half-carry of a subtraction whose wrapped result is `res`, under `SUB_H_RULE`. -/
def hbSub8 (rule : SubHRule) (a b : Byte) (cin : Nat) (res : Byte) : Bool :=
  match rule with
  | .directBorrow => decide (nibble a < nibble b + cin)
  | .wrappedCompare => decide (nibble res > nibble a)

/-- R70, INC. -/
def hcInc8 (v : Byte) : Bool := nibble v == 0xF

/-- R70, DEC. -/
def hbDec8 (v : Byte) : Bool := nibble v == 0x0

/-- The flags of ADD and ADC (R73, R74). -/
def addFlags (a b : Byte) (cin : Nat) (res : Byte) : Flags where
  z := zero8 res
  n := false
  h := hcAdd8 a b cin
  c := cAdd8 a b cin

/-- The flags of SUB, CP and SBC (R76, R77, R78). -/
def subFlags (rule : SubHRule) (a b : Byte) (cin : Nat) (res : Byte) : Flags where
  z := zero8 res
  n := true
  h := hbSub8 rule a b cin res
  c := cSub8 a b cin

/-- The flags of AND, OR and XOR (R79, R80, R81); `h` is `AND_H_VALUE` for AND and false for the others. -/
def logicFlags (h : Bool) (res : Byte) : Flags where
  z := zero8 res
  n := false
  h := h
  c := false

/-- The flags of INC (R82): c is kept. -/
def incFlags (v res : Byte) (old : Flags) : Flags where
  z := zero8 res
  n := false
  h := hcInc8 v
  c := old.c

/-- The flags of DEC (R83): c is kept. -/
def decFlags (v res : Byte) (old : Flags) : Flags where
  z := zero8 res
  n := true
  h := hbDec8 v
  c := old.c

/-- The flags of ADD HL,rr (R75): z by `ADDHL_Z_MODE`. -/
def addHlFlags (mode : AddHlZMode) (a b res : PairWord) (old : Flags) : Flags where
  z := match mode with
    | .fromResult => zero16 res
    | .preserve => old.z
  n := false
  h := hcAdd16 a b
  c := cAdd16 a b

end Sys2Proof.Machine
end

