-- ==== Sys2Proof/Machine/Ops.lean ====
section
/-! DEFINITION. The named operations on the register file (10_state.md R23 to R27, R33 to R36), the
wraparound arithmetic (40_executor.md R66), the writeback of an executed instruction (R64, R65), and the
one exceptional condition (60_exceptions.md R84). There is no memory (20_memory.md R39). -/

namespace Sys2Proof.Machine

/-- `x[r]` (00_scope.md R12). -/
def RegFile.get (f : RegFile) (r : R8) : Byte :=
  match r with
  | .a => f.a
  | .b => f.b
  | .c => f.c
  | .d => f.d
  | .e => f.e
  | .h => f.h
  | .l => f.l

/-- `x[r] <- v` (R12). -/
def RegFile.set (f : RegFile) (r : R8) (v : Byte) : RegFile :=
  match r with
  | .a => { f with a := v }
  | .b => { f with b := v }
  | .c => { f with c := v }
  | .d => { f with d := v }
  | .e => { f with e := v }
  | .h => { f with h := v }
  | .l => { f with l := v }

/-- `F <- flags`. -/
def RegFile.setFlags (f : RegFile) (fl : Flags) : RegFile := { f with f := fl }

/-- The high slot of a pair (R23). -/
def Pair.high (p : Pair) : R8 :=
  match p with
  | .af => .a
  | .bc => .b
  | .de => .d
  | .hl => .h

/-- The low slot of a pair (R23). -/
def Pair.low (p : Pair) : LowSlot :=
  match p with
  | .af => .flags
  | .bc => .plain .c
  | .de => .plain .e
  | .hl => .plain .l

/-- `low16(lo)` (R24): the byte a low slot reads as. -/
def RegFile.getLow (f : RegFile) (lo : LowSlot) : Byte :=
  match lo with
  | .plain r => f.get r
  | .flags => encodeF f.f

/-- The write of a low slot (R25): the flags slot takes bits 7 to 4 and discards bits 3 to 0. -/
def RegFile.setLow (f : RegFile) (lo : LowSlot) (v : Byte) : RegFile :=
  match lo with
  | .plain r => f.set r v
  | .flags => f.setFlags (decodeF v)

/-- `pair(p)` (R24): the high slot in bits 15 to 8, the low slot in bits 7 to 0. -/
def RegFile.getPair (f : RegFile) (p : Pair) : PairWord := f.get p.high ++ f.getLow p.low

/-- `pair(p) <- v` (R25): both slots at once. -/
def RegFile.setPair (f : RegFile) (p : Pair) (v : PairWord) : RegFile :=
  (f.set p.high (v.extractLsb 15 8)).setLow p.low (v.extractLsb 7 0)

/-! ### Wraparound arithmetic (R66) -/

/-- `(a + b + cin) mod 256`. -/
def sum8 (a b : Byte) (cin : Nat) : Byte := BitVec.ofNat 8 (a.toNat + b.toNat + cin)

/-- `(a - b - cin) mod 256`. -/
def diff8 (a b : Byte) (cin : Nat) : Byte := BitVec.ofInt 8 (a.toNat - b.toNat - cin)

/-- `(a + b) mod 65536`. -/
def sum16 (a b : PairWord) : PairWord := BitVec.ofNat 16 (a.toNat + b.toNat)

/-! ### Writeback (R64, R65): register and flags together (R63) -/

/-- The result to one general register, and the flags. -/
def writeback8 (r : R8) (res : Byte) (fl : Flags) (s : State) : Host.Outcome State Fault Refusal :=
  .next { s with regs := (s.regs.set r res).setFlags fl }

/-- The result to HL, and the flags. -/
def writebackHl (res : PairWord) (fl : Flags) (s : State) : Host.Outcome State Fault Refusal :=
  .next { s with regs := (s.regs.setPair .hl res).setFlags fl }

/-- The flags alone (CP). -/
def writebackFlags (fl : Flags) (s : State) : Host.Outcome State Fault Refusal :=
  .next { s with regs := s.regs.setFlags fl }

/-! ### The exceptional condition -/

/-- `raise Unimplemented(code)` (R84, R71): the one exception. It saves nothing, changes no register and
no flag, and goes nowhere (R90); the run stops with the code, the stream position and the register file
as it stands. There is no return from it (R91). -/
def raiseUnimplemented (code : Byte) (s : State) : Host.Outcome State Fault Refusal :=
  .fault (.unimplemented code s.pos s.regs)

end Sys2Proof.Machine
end

