-- ==== Sys2Proof/Machine/Operands.lean ====
section
/-! DEFINITION. The operand multiplexer (40_executor.md R62): which values an instruction computes on,
all read from the state before the transaction (R63). -/

namespace Sys2Proof.Machine

/-- The operands of an 8-bit two-operand instruction: `a`, `b` and `cin` (R13). -/
structure Operands8 where
  a : Byte
  b : Byte
  cin : Nat
  deriving DecidableEq, Repr

/-- The carry-in or borrow-in of an operation: the C flag for ADC and SBC, none (0) for the others (R62). -/
def carryIn (k : AluOp) (f : Flags) : Nat :=
  match k with
  | .adc => bit f.c
  | .sbc => bit f.c
  | .add => 0
  | .sub => 0
  | .and => 0
  | .xor => 0
  | .or => 0
  | .cp => 0

/-- The operands of `Op8(kind, r)` (R62): A, the selected register, and the carry-in. -/
def mux8 (k : AluOp) (r : R8) (s : State) : Operands8 where
  a := s.regs.get .a
  b := s.regs.get r
  cin := carryIn k s.regs.f

/-- The operand of `Inc(r)` and `Dec(r)` (R62). -/
def muxOne (r : R8) (s : State) : Byte := s.regs.get r

/-- The pair a pair selector names (R49, R23). -/
def pairOfSelector (p : P16) : Pair :=
  match p with
  | .bc => .bc
  | .de => .de
  | .hl => .hl

/-- The first operand of `AddHL(p)` (R62): HL. -/
def muxHl (s : State) : PairWord := s.regs.getPair .hl

/-- The second operand of `AddHL(p)` (R62): the selected pair. -/
def muxPair (p : P16) (s : State) : PairWord := s.regs.getPair (pairOfSelector p)

end Sys2Proof.Machine
end

