-- ==== Sys2Proof/Machine/Add.lean ====
section
/-! DEFINITION. Addition (41_add.md): ADD A,r, ADC A,r and ADD HL,rr. -/

namespace Sys2Proof.Machine

/-- ADD A,r (R73), over the selected register. -/
def addR (r : R8) (s : State) : Host.Outcome State Fault Refusal :=
  let o := mux8 .add r s
  let res := sum8 o.a o.b o.cin
  writeback8 .a res (addFlags o.a o.b o.cin res) s

/-- ADD A,B (0x80). -/
def execAddAB (s : State) : Host.Outcome State Fault Refusal := addR .b s

/-- ADD A,C (0x81). -/
def execAddAC (s : State) : Host.Outcome State Fault Refusal := addR .c s

/-- ADD A,D (0x82). -/
def execAddAD (s : State) : Host.Outcome State Fault Refusal := addR .d s

/-- ADD A,E (0x83). -/
def execAddAE (s : State) : Host.Outcome State Fault Refusal := addR .e s

/-- ADD A,H (0x84). -/
def execAddAH (s : State) : Host.Outcome State Fault Refusal := addR .h s

/-- ADD A,L (0x85). -/
def execAddAL (s : State) : Host.Outcome State Fault Refusal := addR .l s

/-- ADD A,A (0x87). -/
def execAddAA (s : State) : Host.Outcome State Fault Refusal := addR .a s

/-- ADC A,r (R74): as ADD with the carry-in. -/
def adcR (r : R8) (s : State) : Host.Outcome State Fault Refusal :=
  let o := mux8 .adc r s
  let res := sum8 o.a o.b o.cin
  writeback8 .a res (addFlags o.a o.b o.cin res) s

/-- ADC A,B (0x88). -/
def execAdcAB (s : State) : Host.Outcome State Fault Refusal := adcR .b s

/-- ADC A,C (0x89). -/
def execAdcAC (s : State) : Host.Outcome State Fault Refusal := adcR .c s

/-- ADC A,D (0x8A). -/
def execAdcAD (s : State) : Host.Outcome State Fault Refusal := adcR .d s

/-- ADC A,E (0x8B). -/
def execAdcAE (s : State) : Host.Outcome State Fault Refusal := adcR .e s

/-- ADC A,H (0x8C). -/
def execAdcAH (s : State) : Host.Outcome State Fault Refusal := adcR .h s

/-- ADC A,L (0x8D). -/
def execAdcAL (s : State) : Host.Outcome State Fault Refusal := adcR .l s

/-- ADC A,A (0x8F). -/
def execAdcAA (s : State) : Host.Outcome State Fault Refusal := adcR .a s

/-- ADD HL,rr (R75), over the selected pair. -/
def addHlPair (p : P16) (s : State) : Host.Outcome State Fault Refusal :=
  let a := muxHl s
  let b := muxPair p s
  let res := sum16 a b
  writebackHl res (addHlFlags s.params.addHlZMode a b res s.regs.f) s

/-- ADD HL,BC (0x09). -/
def execAddHlBc (s : State) : Host.Outcome State Fault Refusal := addHlPair .bc s

/-- ADD HL,DE (0x19). -/
def execAddHlDe (s : State) : Host.Outcome State Fault Refusal := addHlPair .de s

/-- ADD HL,HL (0x29). -/
def execAddHlHl (s : State) : Host.Outcome State Fault Refusal := addHlPair .hl s

end Sys2Proof.Machine
end

