-- ==== Sys2Proof/Machine/IncDec.lean ====
section
/-! DEFINITION. Increment and decrement (44_incdec.md): INC r and DEC r. -/

namespace Sys2Proof.Machine

/-- INC r (R82), over the selected register. -/
def incR (r : R8) (s : State) : Host.Outcome State Fault Refusal :=
  let v := muxOne r s
  let res := sum8 v 0x01#8 0
  writeback8 r res (incFlags v res s.regs.f) s

/-- INC B (0x04). -/
def execIncB (s : State) : Host.Outcome State Fault Refusal := incR .b s

/-- INC C (0x0C). -/
def execIncC (s : State) : Host.Outcome State Fault Refusal := incR .c s

/-- INC D (0x14). -/
def execIncD (s : State) : Host.Outcome State Fault Refusal := incR .d s

/-- INC E (0x1C). -/
def execIncE (s : State) : Host.Outcome State Fault Refusal := incR .e s

/-- INC H (0x24). -/
def execIncH (s : State) : Host.Outcome State Fault Refusal := incR .h s

/-- INC L (0x2C). -/
def execIncL (s : State) : Host.Outcome State Fault Refusal := incR .l s

/-- INC A (0x3C). -/
def execIncA (s : State) : Host.Outcome State Fault Refusal := incR .a s

/-- DEC r (R83), over the selected register. -/
def decR (r : R8) (s : State) : Host.Outcome State Fault Refusal :=
  let v := muxOne r s
  let res := diff8 v 0x01#8 0
  writeback8 r res (decFlags v res s.regs.f) s

/-- DEC B (0x05). -/
def execDecB (s : State) : Host.Outcome State Fault Refusal := decR .b s

/-- DEC C (0x0D). -/
def execDecC (s : State) : Host.Outcome State Fault Refusal := decR .c s

/-- DEC D (0x15). -/
def execDecD (s : State) : Host.Outcome State Fault Refusal := decR .d s

/-- DEC E (0x1D). -/
def execDecE (s : State) : Host.Outcome State Fault Refusal := decR .e s

/-- DEC H (0x25). -/
def execDecH (s : State) : Host.Outcome State Fault Refusal := decR .h s

/-- DEC L (0x2D). -/
def execDecL (s : State) : Host.Outcome State Fault Refusal := decR .l s

/-- DEC A (0x3D). -/
def execDecA (s : State) : Host.Outcome State Fault Refusal := decR .a s

end Sys2Proof.Machine
end

