-- ==== Sys2Proof/Machine/Logic.lean ====
section
/-! DEFINITION. Logical operations (43_logic.md): AND r, OR r and XOR r. -/

namespace Sys2Proof.Machine

/-- AND r (R79), over the selected register; H is `AND_H_VALUE`. -/
def andR (r : R8) (s : State) : Host.Outcome State Fault Refusal :=
  let o := mux8 .and r s
  let res := o.a &&& o.b
  writeback8 .a res (logicFlags s.params.andHValue res) s

/-- AND B (0xA0). -/
def execAndB (s : State) : Host.Outcome State Fault Refusal := andR .b s

/-- AND C (0xA1). -/
def execAndC (s : State) : Host.Outcome State Fault Refusal := andR .c s

/-- AND D (0xA2). -/
def execAndD (s : State) : Host.Outcome State Fault Refusal := andR .d s

/-- AND E (0xA3). -/
def execAndE (s : State) : Host.Outcome State Fault Refusal := andR .e s

/-- AND H (0xA4). -/
def execAndH (s : State) : Host.Outcome State Fault Refusal := andR .h s

/-- AND L (0xA5). -/
def execAndL (s : State) : Host.Outcome State Fault Refusal := andR .l s

/-- AND A (0xA7). -/
def execAndA (s : State) : Host.Outcome State Fault Refusal := andR .a s

/-- OR r (R80), over the selected register. -/
def orR (r : R8) (s : State) : Host.Outcome State Fault Refusal :=
  let o := mux8 .or r s
  let res := o.a ||| o.b
  writeback8 .a res (logicFlags false res) s

/-- OR B (0xB0). -/
def execOrB (s : State) : Host.Outcome State Fault Refusal := orR .b s

/-- OR C (0xB1). -/
def execOrC (s : State) : Host.Outcome State Fault Refusal := orR .c s

/-- OR D (0xB2). -/
def execOrD (s : State) : Host.Outcome State Fault Refusal := orR .d s

/-- OR E (0xB3). -/
def execOrE (s : State) : Host.Outcome State Fault Refusal := orR .e s

/-- OR H (0xB4). -/
def execOrH (s : State) : Host.Outcome State Fault Refusal := orR .h s

/-- OR L (0xB5). -/
def execOrL (s : State) : Host.Outcome State Fault Refusal := orR .l s

/-- OR A (0xB7). -/
def execOrA (s : State) : Host.Outcome State Fault Refusal := orR .a s

/-- XOR r (R81), over the selected register. -/
def xorR (r : R8) (s : State) : Host.Outcome State Fault Refusal :=
  let o := mux8 .xor r s
  let res := o.a ^^^ o.b
  writeback8 .a res (logicFlags false res) s

/-- XOR B (0xA8). -/
def execXorB (s : State) : Host.Outcome State Fault Refusal := xorR .b s

/-- XOR C (0xA9). -/
def execXorC (s : State) : Host.Outcome State Fault Refusal := xorR .c s

/-- XOR D (0xAA). -/
def execXorD (s : State) : Host.Outcome State Fault Refusal := xorR .d s

/-- XOR E (0xAB). -/
def execXorE (s : State) : Host.Outcome State Fault Refusal := xorR .e s

/-- XOR H (0xAC). -/
def execXorH (s : State) : Host.Outcome State Fault Refusal := xorR .h s

/-- XOR L (0xAD). -/
def execXorL (s : State) : Host.Outcome State Fault Refusal := xorR .l s

/-- XOR A (0xAF). -/
def execXorA (s : State) : Host.Outcome State Fault Refusal := xorR .a s

end Sys2Proof.Machine
end

