-- ==== Sys2Proof/Machine/Sub.lean ====
section
/-! DEFINITION. Subtraction and compare (42_sub.md): SUB r, CP r and SBC A,r. -/

namespace Sys2Proof.Machine

/-- SUB r (R76), over the selected register. -/
def subR (r : R8) (s : State) : Host.Outcome State Fault Refusal :=
  let o := mux8 .sub r s
  let res := diff8 o.a o.b o.cin
  writeback8 .a res (subFlags s.params.subHRule o.a o.b o.cin res) s

/-- SUB B (0x90). -/
def execSubB (s : State) : Host.Outcome State Fault Refusal := subR .b s

/-- SUB C (0x91). -/
def execSubC (s : State) : Host.Outcome State Fault Refusal := subR .c s

/-- SUB D (0x92). -/
def execSubD (s : State) : Host.Outcome State Fault Refusal := subR .d s

/-- SUB E (0x93). -/
def execSubE (s : State) : Host.Outcome State Fault Refusal := subR .e s

/-- SUB H (0x94). -/
def execSubH (s : State) : Host.Outcome State Fault Refusal := subR .h s

/-- SUB L (0x95). -/
def execSubL (s : State) : Host.Outcome State Fault Refusal := subR .l s

/-- SUB A (0x97). -/
def execSubA (s : State) : Host.Outcome State Fault Refusal := subR .a s

/-- CP r (R77): the flags of SUB; the result is computed and never written. -/
def cpR (r : R8) (s : State) : Host.Outcome State Fault Refusal :=
  let o := mux8 .cp r s
  let res := diff8 o.a o.b o.cin
  writebackFlags (subFlags s.params.subHRule o.a o.b o.cin res) s

/-- CP B (0xB8). -/
def execCpB (s : State) : Host.Outcome State Fault Refusal := cpR .b s

/-- CP C (0xB9). -/
def execCpC (s : State) : Host.Outcome State Fault Refusal := cpR .c s

/-- CP D (0xBA). -/
def execCpD (s : State) : Host.Outcome State Fault Refusal := cpR .d s

/-- CP E (0xBB). -/
def execCpE (s : State) : Host.Outcome State Fault Refusal := cpR .e s

/-- CP H (0xBC). -/
def execCpH (s : State) : Host.Outcome State Fault Refusal := cpR .h s

/-- CP L (0xBD). -/
def execCpL (s : State) : Host.Outcome State Fault Refusal := cpR .l s

/-- CP A (0xBF). -/
def execCpA (s : State) : Host.Outcome State Fault Refusal := cpR .a s

/-- SBC A,r (R78): as SUB with the borrow-in. -/
def sbcR (r : R8) (s : State) : Host.Outcome State Fault Refusal :=
  let o := mux8 .sbc r s
  let res := diff8 o.a o.b o.cin
  writeback8 .a res (subFlags s.params.subHRule o.a o.b o.cin res) s

/-- SBC A,B (0x98). -/
def execSbcAB (s : State) : Host.Outcome State Fault Refusal := sbcR .b s

/-- SBC A,C (0x99). -/
def execSbcAC (s : State) : Host.Outcome State Fault Refusal := sbcR .c s

/-- SBC A,D (0x9A). -/
def execSbcAD (s : State) : Host.Outcome State Fault Refusal := sbcR .d s

/-- SBC A,E (0x9B). -/
def execSbcAE (s : State) : Host.Outcome State Fault Refusal := sbcR .e s

/-- SBC A,H (0x9C). -/
def execSbcAH (s : State) : Host.Outcome State Fault Refusal := sbcR .h s

/-- SBC A,L (0x9D). -/
def execSbcAL (s : State) : Host.Outcome State Fault Refusal := sbcR .l s

/-- SBC A,A (0x9F). -/
def execSbcAA (s : State) : Host.Outcome State Fault Refusal := sbcR .a s

end Sys2Proof.Machine
end

