-- ==== Sys2Proof/Machine/Port.lean ====
section
/-! DEFINITION. The block's interface: what each transaction of 10_state.md section 5 does, and how the
next one is taken from the driver's stream (20_memory.md R44, 40_executor.md R71). -/

namespace Sys2Proof.Machine

/-- The driver issues `t` as the very next transaction. -/
def issue (t : Transaction) (s : State) : State := { s with queue := t :: s.queue }

/-- The next transaction of the stream, in issue order (R44), and the state with it taken off. -/
def nextTransaction (s : State) : Option (Transaction × State) :=
  match s.queue with
  | [] => none
  | t :: rest => some (t, { s with queue := rest })

/-- Put `r` on the output. -/
def replyWith (r : Reply) (s : State) : Host.Outcome State Fault Refusal := .next { s with reply := r }

/-- EXEC returns OK, and the stream position moves by one code (R61, R71). -/
def returnOk (s : State) : State := { s with pos := s.pos + 1, reply := .ok }

/-- EXEC's outcome: OK is returned from where the instruction ended (R61). -/
def finishExec (o : Host.Outcome State Fault Refusal) : Host.Outcome State Fault Refusal :=
  match o with
  | .next t => .next (returnOk t)
  | .fault e => .fault e
  | .refused q => .refused q

/-- `EXEC(code)` (R61). -/
def performExec (code : Byte) (s : State) : Host.Outcome State Fault Refusal :=
  match decode code with
  | none => raiseUnimplemented code s
  | some i => finishExec (exec i s)

/-- `RESET` (R98): the whole block to its reset values. The stream position is not block state (R31). -/
def performReset (s : State) : Host.Outcome State Fault Refusal :=
  replyWith .nothing { s with regs := RegFile.reset }

/-- `READ_R8(r)` (R33). -/
def performReadR8 (r : R8) (s : State) : Host.Outcome State Fault Refusal :=
  replyWith (.byte (s.regs.get r)) s

/-- `WRITE_R8(r, v)` (R34). -/
def performWriteR8 (r : R8) (v : Byte) (s : State) : Host.Outcome State Fault Refusal :=
  replyWith .nothing { s with regs := s.regs.set r v }

/-- `READ_F` (R35). -/
def performReadF (s : State) : Host.Outcome State Fault Refusal :=
  replyWith (.byte (encodeF s.regs.f)) s

/-- `WRITE_F(b)` (R36). -/
def performWriteF (b : Byte) (s : State) : Host.Outcome State Fault Refusal :=
  replyWith .nothing { s with regs := s.regs.setFlags (decodeF b) }

/-- `READ_PAIR(p)` (R24). -/
def performReadPair (p : Pair) (s : State) : Host.Outcome State Fault Refusal :=
  replyWith (.pair (s.regs.getPair p)) s

/-- `WRITE_PAIR(p, v)` (R25). -/
def performWritePair (p : Pair) (v : PairWord) (s : State) : Host.Outcome State Fault Refusal :=
  replyWith .nothing { s with regs := s.regs.setPair p v }

/-- One transaction of the interface (10_state.md section 5). -/
def perform (t : Transaction) (s : State) : Host.Outcome State Fault Refusal :=
  match t with
  | .reset => performReset s
  | .exec code => performExec code s
  | .readR8 r => performReadR8 r s
  | .writeR8 r v => performWriteR8 r v s
  | .readF => performReadF s
  | .writeF b => performWriteF b s
  | .readPair p => performReadPair p s
  | .writePair p v => performWritePair p v s

/-- With nothing issued the block is idle and keeps its whole state (R97, notes/assumptions/3.md). -/
def idle (s : State) : Host.Outcome State Fault Refusal := .next s

/-- The outputs z, n, h and c, always visible and no transaction (R37). -/
def flagOutputs (s : State) : Flags := s.regs.f

end Sys2Proof.Machine
end

