-- ==== Sys2Proof/Machine/Step.lean ====
section
/-! DEFINITION. One step: the next transaction of the stream, or idling. -/

namespace Sys2Proof.Machine

/-- The block performs the next transaction issued (20_memory.md R44); with none it is idle
(60_exceptions.md R97). -/
def step (s : State) : Host.Outcome State Fault Refusal :=
  match nextTransaction s with
  | none => idle s
  | some (t, s') => perform t s'

/-- The driver issues `EXEC` of the code in `w` as the very next transaction; nothing else changes
(notes/assumptions/2.md). -/
def State.withFetchWord (s : State) (nbits w : Nat) : State := issue (.exec (tableCode nbits w)) s

end Sys2Proof.Machine
end

