-- ==== Sys2Proof/Safety.lean ====
section
/-! DEFINITION. What counts as a safe stream of transactions and a proper place in it, in the terms the
statements use (40_executor.md R71, 60_exceptions.md R85, R86). -/

namespace Sys2Proof.Machine

/-- A transaction that cannot fault: every one but the EXEC of a code outside the opcode map (R84, R85). -/
def Transaction.safe (t : Transaction) : Bool :=
  match t with
  | .exec code => (decode code).isSome
  | .reset => true
  | .readR8 _ => true
  | .writeR8 _ _ => true
  | .readF => true
  | .writeF _ => true
  | .readPair _ => true
  | .writePair _ _ => true

/-- Whether a transaction is an EXEC, the only kind that moves the stream position (R71). -/
def Transaction.isExec (t : Transaction) : Bool :=
  match t with
  | .exec _ => true
  | .reset => false
  | .readR8 _ => false
  | .writeR8 _ _ => false
  | .readF => false
  | .writeF _ => false
  | .readPair _ => false
  | .writePair _ _ => false

/-- How many instruction codes of the stream are still to be executed. -/
def State.codesLeft (s : State) : Nat := s.queue.countP Transaction.isExec

/-- The run is over (R71: `i == n`): nothing of the stream is left. A faulted run never is (R86). -/
def State.Finished (s : State) : Prop := s.queue = []

/-- The stream holds no code that would fault. -/
def State.StreamSafe (s : State) : Prop := ∀ t ∈ s.queue, t.safe = true

/-- The invariant of a run over a stream of `n` codes on a block built with parameters `p`: the
parameters stand (R30), and the position and the codes still to come make up the stream's length (R71). -/
structure State.AtStream (p : Config) (n : Nat) (s : State) : Prop where
  params : s.params = p
  position : s.pos + s.codesLeft = n

end Sys2Proof.Machine
end

