-- ==== Sys2Proof/Certificates/Slice0/Obligations.lean ====
section
/-! DEFINITION. The statements for the provers. Each says in its docstring which rule of spec/ it
formalises, and where it rests on a decision the spec marks as its own (92_eei_decisions.md) or on an
entry of the assumption log. Results and flags are stated in plain arithmetic on the operands' numbers,
not through the model's own helpers. -/

namespace Sys2Proof.Statements

open Sys2Proof Sys2Proof.Machine

/-- Nothing but the block's own registers differs: the parameters, the stream, the stream position and the
reply are as before. -/
def SameOutside (s t : State) : Prop :=
  t.params = s.params ∧ t.queue = s.queue ∧ t.pos = s.pos ∧ t.reply = s.reply

/-- No general register differs but those listed. -/
def RegsSameBut (rs : List R8) (s t : State) : Prop :=
  ∀ q, q ∉ rs → t.regs.get q = s.regs.get q

/-- A general register's value as a number. -/
def num (s : State) (r : R8) : Nat := (s.regs.get r).toNat

/-- The carry flag as a number (R62 `bit(F.c)`). -/
def carryNum (s : State) : Nat := if s.regs.f.c = true then 1 else 0

/-- The pair a selector of ADD HL,rr names, as a number: the first-named register is the high byte (R23,
the spec's own decision D14). -/
def pairNum (s : State) (p : P16) : Nat :=
  match p with
  | .bc => num s .b * 256 + num s .c
  | .de => num s .d * 256 + num s .e
  | .hl => num s .h * 256 + num s .l

/-- The registers an instruction writes (10_state.md R16). -/
def destinations (f : Form) : List R8 :=
  match f with
  | .op8 .cp _ => []
  | .op8 _ _ => [.a]
  | .inc r => [r]
  | .dec r => [r]
  | .addHl _ => [.h, .l]

/-- The registers an instruction reads (10_state.md R16). -/
def sources (f : Form) : List R8 :=
  match f with
  | .op8 _ r => [.a, r]
  | .inc r => [r]
  | .dec r => [r]
  | .addHl .bc => [.h, .l, .b, .c]
  | .addHl .de => [.h, .l, .d, .e]
  | .addHl .hl => [.h, .l]

/-- The instructions that read the C flag (10_state.md R18). -/
def readsCarry (f : Form) : Prop := ∃ r, f = .op8 .adc r ∨ f = .op8 .sbc r

/-- The instructions that never write the C flag (R18, R65). -/
def keepsCarry (f : Form) : Prop := ∃ r, f = .inc r ∨ f = .dec r

/-- Performing the first two transactions of the stream ends with this output of the second. -/
def SecondAnswers (s : State) (r : Reply) : Prop := ∃ t, core.run 2 s = .next t ∧ t.reply = r

end Sys2Proof.Statements

open Sys2Proof Sys2Proof.Machine Sys2Proof.Statements

/-! ### Encoding -/

/-- One code of each family, written out from the formats of R50, decodes to its instruction. The layout
is the spec's own decision D1 (notes/assumptions/7.md). -/
def Obligations.SampleCodesDecode : Prop :=
  decode 0b10000000#8 = some .addAB ∧ decode 0b10001111#8 = some .adcAA ∧
  decode 0b10010001#8 = some .subC ∧ decode 0b10011010#8 = some .sbcAD ∧
  decode 0b10100011#8 = some .andE ∧ decode 0b10101100#8 = some .xorH ∧
  decode 0b10110101#8 = some .orL ∧ decode 0b10111111#8 = some .cpA ∧
  decode 0b00000100#8 = some .incB ∧ decode 0b00111101#8 = some .decA ∧
  decode 0b00011001#8 = some .addHlDe ∧
  decode 0b00000000#8 = none ∧ decode 0b10000110#8 = none ∧ decode 0b00111001#8 = none ∧
  decode 0b00110100#8 = none ∧ decode 0b11001011#8 = none

/-- The decode function of R55 is exactly the opcode map R56 lists. The layout is the spec's own decision
D1 (notes/assumptions/7.md). -/
def Obligations.DecodeAgreesWithOpcodeMap : Prop :=
  ∀ (code : Byte) (i : Instr), decode code = some i ↔ (code, i) ∈ opcodeMap

/-- Decoding and encoding agree for every instruction and every code: the code of an instruction decodes
to it, also in the host's numbering, and a code that decodes to an instruction is that instruction's code
(R60: every mnemonic is exactly one code). The layout is the spec's own decision D1
(notes/assumptions/7.md). -/
def Obligations.DecodeEncodeAgree : Prop :=
  (∀ i : Instr, decode (encode i) = some i ∧ decodeTableWord 8 (encode i).toNat = some i) ∧
  (∀ (code : Byte) (i : Instr), decode code = some i → encode i = code)

/-- A code is unimplemented exactly when no format of R50 with a valid selector admits it (R57). The layout
is the spec's own decision D1 (notes/assumptions/7.md). -/
def Obligations.UnimplementedExactlyOutsideFormats : Prop :=
  ∀ code : Byte, decode code = none ↔ codeOk code = false

/-- 73 of the 256 codes are instructions and 183 are unimplemented (R56, R57; layout: the spec's own
decision D1, notes/assumptions/7.md). -/
def Obligations.SeventyThreeCodesDecode : Prop :=
  ((List.range 256).countP fun n => (decode (BitVec.ofNat 8 n)).isSome) = 73 ∧
  ((List.range 256).countP fun n => (decode (BitVec.ofNat 8 n)).isNone) = 183

/-! ### Instructions -/

/-- ADD A,r (41_add.md R73) completes in every state: sum modulo 256, the four flags, and the frame. That
A is the first operand and the destination is the spec's own decision D2 (notes/assumptions/8.md). -/
def Obligations.AddGivesSumAndFlags : Prop :=
  ∀ (r : R8) (s : State), ∃ t, exec (Instr.ofForm (.op8 .add r)) s = .next t ∧
    num t .a = (num s .a + num s r) % 256 ∧
    (t.regs.f.z = true ↔ (num s .a + num s r) % 256 = 0) ∧
    t.regs.f.n = false ∧
    (t.regs.f.h = true ↔ num s .a % 16 + num s r % 16 > 15) ∧
    (t.regs.f.c = true ↔ num s .a + num s r ≥ 256) ∧
    RegsSameBut [.a] s t ∧ SameOutside s t

/-- ADC A,r (41_add.md R74) completes in every state, with the carry-in in the result, in H and in C, and
its frame. A as destination is the spec's own decision D2, the C flag as carry-in its decision D3
(notes/assumptions/8.md, 9.md). -/
def Obligations.AdcAddsCarryIn : Prop :=
  ∀ (r : R8) (s : State), ∃ t, exec (Instr.ofForm (.op8 .adc r)) s = .next t ∧
    num t .a = (num s .a + num s r + carryNum s) % 256 ∧
    (t.regs.f.z = true ↔ (num s .a + num s r + carryNum s) % 256 = 0) ∧
    t.regs.f.n = false ∧
    (t.regs.f.h = true ↔ num s .a % 16 + num s r % 16 + carryNum s > 15) ∧
    (t.regs.f.c = true ↔ num s .a + num s r + carryNum s ≥ 256) ∧
    RegsSameBut [.a] s t ∧ SameOutside s t

/-- ADD HL,rr (41_add.md R75) completes in every state: the 16-bit sum in H and L, H from bit 11, C from
bit 15, and Z as `ADDHL_Z_MODE` says, for both of its values; frame. Which register of a pair is high is
the spec's own decision D14, the parameter its decision D4 (notes/assumptions/1.md, 10.md). -/
def Obligations.AddHlGivesWideSum : Prop :=
  ∀ (p : P16) (s : State), ∃ t, exec (Instr.ofForm (.addHl p)) s = .next t ∧
    num t .h * 256 + num t .l = (pairNum s .hl + pairNum s p) % 65536 ∧
    (s.params.addHlZMode = .fromResult →
      (t.regs.f.z = true ↔ (pairNum s .hl + pairNum s p) % 65536 = 0)) ∧
    (s.params.addHlZMode = .preserve → t.regs.f.z = s.regs.f.z) ∧
    t.regs.f.n = false ∧
    (t.regs.f.h = true ↔ pairNum s .hl % 4096 + pairNum s p % 4096 > 4095) ∧
    (t.regs.f.c = true ↔ pairNum s .hl + pairNum s p ≥ 65536) ∧
    RegsSameBut [.h, .l] s t ∧ SameOutside s t

/-- SUB r (42_sub.md R76) completes in every state: the difference modulo 256, the flags, the same H
under either `SUB_H_RULE`, and the frame. A as minuend and destination is the spec's own decision D2
(notes/assumptions/8.md). -/
def Obligations.SubGivesDifferenceAndFlags : Prop :=
  ∀ (r : R8) (s : State), ∃ t, exec (Instr.ofForm (.op8 .sub r)) s = .next t ∧
    num t .a = (256 + num s .a - num s r) % 256 ∧
    (t.regs.f.z = true ↔ num s .a = num s r) ∧
    t.regs.f.n = true ∧
    (t.regs.f.h = true ↔ num s .a % 16 < num s r % 16) ∧
    (t.regs.f.c = true ↔ num s .a < num s r) ∧
    RegsSameBut [.a] s t ∧ SameOutside s t

/-- CP r (42_sub.md R77) completes in every state: it writes the flags of the comparison, and no general
register at all. A as first operand is the spec's own decision D2 (notes/assumptions/8.md). -/
def Obligations.CpWritesFlagsOnly : Prop :=
  ∀ (r : R8) (s : State), ∃ t, exec (Instr.ofForm (.op8 .cp r)) s = .next t ∧
    (t.regs.f.z = true ↔ num s .a = num s r) ∧
    t.regs.f.n = true ∧
    (t.regs.f.h = true ↔ num s .a % 16 < num s r % 16) ∧
    (t.regs.f.c = true ↔ num s .a < num s r) ∧
    RegsSameBut [] s t ∧ SameOutside s t

/-- SBC A,r (42_sub.md R78) completes in every state, with the borrow-in in the result, in H and in C; H
for each value of `SUB_H_RULE`; frame. A as destination is the spec's own decision D2, the C flag as
borrow-in D3, the parameter D6 (notes/assumptions/1.md, 8.md, 9.md). -/
def Obligations.SbcSubtractsBorrowIn : Prop :=
  ∀ (r : R8) (s : State), ∃ t, exec (Instr.ofForm (.op8 .sbc r)) s = .next t ∧
    num t .a = (256 + num s .a - (num s r + carryNum s)) % 256 ∧
    (t.regs.f.z = true ↔ (256 + num s .a - (num s r + carryNum s)) % 256 = 0) ∧
    t.regs.f.n = true ∧
    (s.params.subHRule = .directBorrow →
      (t.regs.f.h = true ↔ num s .a % 16 < num s r % 16 + carryNum s)) ∧
    (s.params.subHRule = .wrappedCompare →
      (t.regs.f.h = true ↔
        (256 + num s .a - (num s r + carryNum s)) % 16 > num s .a % 16)) ∧
    (t.regs.f.c = true ↔ num s .a < num s r + carryNum s) ∧
    RegsSameBut [.a] s t ∧ SameOutside s t

/-- AND r (43_logic.md R79) completes in every state: bit by bit, H is `AND_H_VALUE`, C and N false;
frame. A as destination is the spec's own decision D2, the parameter D5 (notes/assumptions/1.md, 8.md). -/
def Obligations.AndIsBitwise : Prop :=
  ∀ (r : R8) (s : State), ∃ t, exec (Instr.ofForm (.op8 .and r)) s = .next t ∧
    (∀ k, k < 8 → (t.regs.get .a).getLsbD k =
      ((s.regs.get .a).getLsbD k && (s.regs.get r).getLsbD k)) ∧
    (t.regs.f.z = true ↔ num t .a = 0) ∧
    t.regs.f.n = false ∧ t.regs.f.h = s.params.andHValue ∧ t.regs.f.c = false ∧
    RegsSameBut [.a] s t ∧ SameOutside s t

/-- OR r (43_logic.md R80) completes in every state: bit by bit, N, H and C false; frame. A as destination
is the spec's own decision D2 (notes/assumptions/8.md). -/
def Obligations.OrIsBitwise : Prop :=
  ∀ (r : R8) (s : State), ∃ t, exec (Instr.ofForm (.op8 .or r)) s = .next t ∧
    (∀ k, k < 8 → (t.regs.get .a).getLsbD k =
      ((s.regs.get .a).getLsbD k || (s.regs.get r).getLsbD k)) ∧
    (t.regs.f.z = true ↔ num t .a = 0) ∧
    t.regs.f.n = false ∧ t.regs.f.h = false ∧ t.regs.f.c = false ∧
    RegsSameBut [.a] s t ∧ SameOutside s t

/-- XOR r (43_logic.md R81) completes in every state: bit by bit, N, H and C false; frame. A as destination
is the spec's own decision D2 (notes/assumptions/8.md). -/
def Obligations.XorIsBitwise : Prop :=
  ∀ (r : R8) (s : State), ∃ t, exec (Instr.ofForm (.op8 .xor r)) s = .next t ∧
    (∀ k, k < 8 → (t.regs.get .a).getLsbD k =
      ((s.regs.get .a).getLsbD k ^^ (s.regs.get r).getLsbD k)) ∧
    (t.regs.f.z = true ↔ num t .a = 0) ∧
    t.regs.f.n = false ∧ t.regs.f.h = false ∧ t.regs.f.c = false ∧
    RegsSameBut [.a] s t ∧ SameOutside s t

/-- INC r (44_incdec.md R82) completes in every state: the selected register plus one modulo 256, Z, N and
H; the carry is kept; frame. -/
def Obligations.IncAddsOneKeepingCarry : Prop :=
  ∀ (r : R8) (s : State), ∃ t, exec (Instr.ofForm (.inc r)) s = .next t ∧
    num t r = (num s r + 1) % 256 ∧
    (t.regs.f.z = true ↔ num s r = 255) ∧
    t.regs.f.n = false ∧
    (t.regs.f.h = true ↔ num s r % 16 = 15) ∧
    t.regs.f.c = s.regs.f.c ∧
    RegsSameBut [r] s t ∧ SameOutside s t

/-- DEC r (44_incdec.md R83) completes in every state: the selected register minus one modulo 256, Z, N
and H, the same under either `SUB_H_RULE`; the carry is kept; frame. -/
def Obligations.DecSubtractsOneKeepingCarry : Prop :=
  ∀ (r : R8) (s : State), ∃ t, exec (Instr.ofForm (.dec r)) s = .next t ∧
    num t r = (256 + num s r - 1) % 256 ∧
    (t.regs.f.z = true ↔ num s r = 1) ∧
    t.regs.f.n = true ∧
    (t.regs.f.h = true ↔ num s r % 16 = 0) ∧
    t.regs.f.c = s.regs.f.c ∧
    RegsSameBut [r] s t ∧ SameOutside s t

/-! ### Rules over all instructions -/

/-- Totality and determinism (R72): every code that decodes, in every state, makes EXEC return OK, and
the register file it leaves is determined by the register file before, the code and the parameters. -/
def Obligations.ExecIsTotalAndDetermined : Prop :=
  ∀ (code : Byte) (s : State), decode code ≠ none →
    ∃ t, perform (.exec code) s = .next t ∧ t.reply = .ok ∧
      ∀ s' : State, s'.regs = s.regs → s'.params = s.params →
        ∃ t', perform (.exec code) s' = .next t' ∧ t'.reply = .ok ∧ t'.regs = t.regs

/-- No instruction writes a general register but its destination: A for the 8-bit operations, none for CP,
the selected register for INC and DEC, H and L for ADD HL,rr (R16, R64), and nothing outside the block's
registers. A as destination is the spec's own decision D2 (notes/assumptions/8.md). -/
def Obligations.OnlyDestinationsAreWritten : Prop :=
  ∀ (i : Instr) (s t : State), exec i s = .next t →
    RegsSameBut (destinations i.form) s t ∧ SameOutside s t

/-- What an instruction computes depends on its source registers, the parameters and, for ADC and SBC
alone, the C flag (R102, R16, R18): two states that agree on these give the same written registers and
the same written flags, whatever else they hold. A as a source is the spec's own decision D2, the C flag
as carry-in D3, the parameter that keeps Z D4 (notes/assumptions/1.md, 8.md, 9.md). -/
def Obligations.ResultDependsOnlyOnSources : Prop :=
  ∀ (i : Instr) (s₁ s₂ t₁ t₂ : State),
    (∀ r ∈ sources i.form, s₁.regs.get r = s₂.regs.get r) →
    (readsCarry i.form → s₁.regs.f.c = s₂.regs.f.c) →
    s₁.params = s₂.params →
    exec i s₁ = .next t₁ → exec i s₂ = .next t₂ →
    (∀ r ∈ destinations i.form, t₁.regs.get r = t₂.regs.get r) ∧
    t₁.regs.f.n = t₂.regs.f.n ∧ t₁.regs.f.h = t₂.regs.f.h ∧
    ((∀ p, i.form ≠ .addHl p) ∨ s₁.params.addHlZMode = .fromResult →
      t₁.regs.f.z = t₂.regs.f.z) ∧
    (¬ keepsCarry i.form → t₁.regs.f.c = t₂.regs.f.c)

/-- With the C flag clear, ADC is ADD and SBC is SUB, in result and in flags, under every parameter value
(R74 and R78, corner cases). The C flag as carry-in is the spec's own decision D3
(notes/assumptions/9.md). -/
def Obligations.CarryFormsWithoutCarryArePlain : Prop :=
  ∀ (r : R8) (s : State), s.regs.f.c = false →
    exec (Instr.ofForm (.op8 .adc r)) s = exec (Instr.ofForm (.op8 .add r)) s ∧
    exec (Instr.ofForm (.op8 .sbc r)) s = exec (Instr.ofForm (.op8 .sub r)) s

/-- CP is SUB with the result thrown away (R77): the same four flags, and the registers of before. A as
destination is the spec's own decision D2 (notes/assumptions/8.md). -/
def Obligations.CpIsSubWithoutResult : Prop :=
  ∀ (r : R8) (s : State), ∃ t u,
    exec (Instr.ofForm (.op8 .cp r)) s = .next t ∧
    exec (Instr.ofForm (.op8 .sub r)) s = .next u ∧
    t.regs.f = u.regs.f ∧ ∀ q, t.regs.get q = s.regs.get q

/-- The two readings of the half-carry of a subtraction agree whenever there is no borrow-in, and with one
they differ exactly when the subtrahend's low nibble is 0xF, where only the direct borrow reports it
(R69). The parameter and the wrapped formula are the spec's own decision D6 (notes/assumptions/1.md). -/
def Obligations.SubHalfRulesDifferOnlyAtFullNibble : Prop :=
  ∀ a b : Byte,
    hbSub8 .directBorrow a b 0 (diff8 a b 0) = hbSub8 .wrappedCompare a b 0 (diff8 a b 0) ∧
    (hbSub8 .directBorrow a b 1 (diff8 a b 1) ≠ hbSub8 .wrappedCompare a b 1 (diff8 a b 1) ↔
      b.toNat % 16 = 15) ∧
    (b.toNat % 16 = 15 →
      hbSub8 .directBorrow a b 1 (diff8 a b 1) = true ∧
      hbSub8 .wrappedCompare a b 1 (diff8 a b 1) = false)

/-- The half-carry of INC and of DEC is that of adding and of directly subtracting one (R70, marked there
as derived). -/
def Obligations.IncDecHalfCarryIsThatOfOne : Prop :=
  ∀ v : Byte, hcInc8 v = hcAdd8 v 1#8 0 ∧ hbDec8 v = hbSub8 .directBorrow v 1#8 0 (diff8 v 1#8 0)

/-- An operation of A on itself reads the old A twice (R63): XOR A gives zero and F = 0x80, SUB A gives
zero and F = 0xC0, CP A gives F = 0xC0, from every state and under every parameter value (corner cases of
R81, R76 and R77). A as destination is the spec's own decision D2 (notes/assumptions/8.md). -/
def Obligations.SelfOperandsCancel : Prop :=
  ∀ s : State, ∃ t u v,
    exec .xorA s = .next t ∧ t.regs.get .a = 0x00#8 ∧ encodeF t.regs.f = 0x80#8 ∧
    exec .subA s = .next u ∧ u.regs.get .a = 0x00#8 ∧ encodeF u.regs.f = 0xC0#8 ∧
    exec .cpA s = .next v ∧ v.regs.get .a = s.regs.get .a ∧ encodeF v.regs.f = 0xC0#8

/-! ### Flags register and pairs -/

/-- The flags encoder (R20): z, n, h, c weigh 128, 64, 32 and 16, and nothing else is in the byte. -/
def Obligations.EncodeFWeighsFlags : Prop :=
  ∀ f : Flags, (encodeF f).toNat =
    (if f.z = true then 128 else 0) + (if f.n = true then 64 else 0) +
    (if f.h = true then 32 else 0) + (if f.c = true then 16 else 0)

/-- The flags decoder (R21): each flag is its bit of the byte, and bits 3 to 0 do not matter. -/
def Obligations.DecodeFReadsTopBits : Prop :=
  ∀ b : Byte,
    ((decodeF b).z = true ↔ b.toNat / 128 % 2 = 1) ∧ ((decodeF b).n = true ↔ b.toNat / 64 % 2 = 1) ∧
    ((decodeF b).h = true ↔ b.toNat / 32 % 2 = 1) ∧ ((decodeF b).c = true ↔ b.toNat / 16 % 2 = 1) ∧
    ∀ b' : Byte, b'.toNat / 16 = b.toNat / 16 → decodeF b' = decodeF b

/-- Encoder and decoder together (R22). -/
def Obligations.FlagsCodecRoundTrip : Prop :=
  (∀ f : Flags, decodeF (encodeF f) = f) ∧ ∀ b : Byte, encodeF (decodeF b) = b &&& 0xF0#8

/-- READ_PAIR (R24; a transaction by the spec's own decision D8, notes/assumptions/11.md): the high slot
times 256 plus the low slot, which for the flags slot is the packed byte, so AF reads a zero low nibble (a
clause the spec marks as derived); the read has no side effect on the block. That the answer stands in the
reply field, and that the stream, its position and the parameters stand, is the model's choice
(notes/assumptions/1.md, 2.md, 4.md, 5.md). -/
def Obligations.ReadPairConcatenatesSlots : Prop :=
  ∀ (p : Pair) (s : State), ∃ v : PairWord,
    perform (.readPair p) s = .next { s with reply := .pair v } ∧
    (∀ r, p.low = .plain r → v.toNat = num s p.high * 256 + num s r) ∧
    (p.low = .flags → v.toNat = num s p.high * 256 + (encodeF s.regs.f).toNat ∧ v.toNat % 16 = 0)

/-- WRITE_PAIR (R25; a transaction by the spec's own decision D8, notes/assumptions/11.md): from every state
and for every 16-bit value, bits 15 to 8 to the high slot and bits 7 to 0 to the low slot in one
transaction; the flags slot takes the decoded byte; a plain low slot leaves the flags; no other register
changes. That the stream, the parameters and the position stand, R25 does not say: it is the model's choice
(notes/assumptions/1.md, 2.md, 4.md). -/
def Obligations.WritePairFillsBothSlots : Prop :=
  ∀ (p : Pair) (v : PairWord) (s : State),
    ∃ t, perform (.writePair p v) s = .next t ∧ num t p.high = v.toNat / 256 ∧
      (∀ r, p.low = .plain r → num t r = v.toNat % 256 ∧ t.regs.f = s.regs.f ∧
        RegsSameBut [p.high, r] s t) ∧
      (p.low = .flags → t.regs.f = decodeF (BitVec.ofNat 8 (v.toNat % 256)) ∧
        RegsSameBut [p.high] s t) ∧
      t.queue = s.queue ∧ t.params = s.params ∧ t.pos = s.pos

/-- The slots of the four pairs (R23): the first-named register is the high slot, the spec's own decision
D14 (notes/assumptions/10.md), and the low slot of AF is the flags register. -/
def Obligations.PairSlotsFollowNames : Prop :=
  (Pair.af.high = .a ∧ Pair.af.low = .flags) ∧ (Pair.bc.high = .b ∧ Pair.bc.low = .plain .c) ∧
  (Pair.de.high = .d ∧ Pair.de.low = .plain .e) ∧ (Pair.hl.high = .h ∧ Pair.hl.low = .plain .l)

/-- The pair laws (R26, as 90_conflicts.md C3 reads them): writing back what was read changes nothing, for
all four pairs; what is written is read, but for the low nibble of AF. The spec marks the second law as
derived. -/
def Obligations.PairReadAfterWrite : Prop :=
  ∀ (f : RegFile) (p : Pair) (v : PairWord),
    f.setPair p (f.getPair p) = f ∧
    (p ≠ .af → (f.setPair p v).getPair p = v) ∧
    (f.setPair .af v).getPair .af = v &&& 0xFFF0#16

/-! ### Host paths and reset -/

/-- READ_R8 and READ_F (R33, R35; transactions by the spec's own decision D8, notes/assumptions/11.md): the
value asked for, and no change of the block. That the answer stands in the reply field, and that the stream,
its position and the parameters stand, is the model's choice (notes/assumptions/1.md, 2.md, 4.md, 5.md). -/
def Obligations.HostReadsChangeNothing : Prop :=
  ∀ s : State,
    (∀ r, ∃ v, perform (.readR8 r) s = .next { s with reply := .byte v } ∧ v.toNat = num s r) ∧
    (∃ v, perform .readF s = .next { s with reply := .byte v } ∧ v.toNat =
      (if s.regs.f.z = true then 128 else 0) + (if s.regs.f.n = true then 64 else 0) +
      (if s.regs.f.h = true then 32 else 0) + (if s.regs.f.c = true then 16 else 0))

/-- WRITE_R8 and WRITE_F (R34, R36; the spec's own decision D8, notes/assumptions/11.md): the one register,
or the four flags from bits 7 to 4, and nothing else of the block. That the stream, the parameters and the
position stand across a host write, the rules do not say: it is the model's choice (notes/assumptions/1.md,
2.md, 4.md). -/
def Obligations.HostWritesChangeOnlyTheirTarget : Prop :=
  ∀ s : State,
    (∀ r v, ∃ t, perform (.writeR8 r v) s = .next t ∧ t.regs.get r = v ∧ RegsSameBut [r] s t ∧
      t.regs.f = s.regs.f ∧ t.queue = s.queue ∧ t.params = s.params ∧ t.pos = s.pos) ∧
    (∀ b, ∃ t, perform (.writeF b) s = .next t ∧ encodeF t.regs.f = b &&& 0xF0#8 ∧
      RegsSameBut [] s t ∧ t.queue = s.queue ∧ t.params = s.params ∧ t.pos = s.pos)

/-- What a host write leaves is what the next host read answers (R103, R27): each of WRITE_R8, WRITE_PAIR and
WRITE_F followed by each of READ_R8, READ_PAIR and READ_F. A register and its pair, and F and AF, are the
same storage, and what the write does not name reads as before. The host paths are the spec's own decision
D8, their order D11, the slots of BC, DE and HL D14 (notes/assumptions/10.md, 11.md); the stream and the
reply that holds the answer are the model's choice (notes/assumptions/2.md, 5.md). -/
def Obligations.WritesAreVisibleToTheNextRead : Prop :=
  ∀ (rest : List Transaction) (s : State),
    (∀ r v,
      (∀ q, s.queue = .writeR8 r v :: .readR8 q :: rest →
        SecondAnswers s (.byte (if q = r then v else s.regs.get q))) ∧
      (∀ p q, p.low = .plain q → s.queue = .writeR8 r v :: .readPair p :: rest →
        ∃ w, SecondAnswers s (.pair w) ∧ w.toNat =
          (if p.high = r then v.toNat else num s p.high) * 256 + if q = r then v.toNat else num s q) ∧
      (∀ p, p.low = .flags → s.queue = .writeR8 r v :: .readPair p :: rest →
        ∃ w, SecondAnswers s (.pair w) ∧ w.toNat =
          (if p.high = r then v.toNat else num s p.high) * 256 + (encodeF s.regs.f).toNat) ∧
      (s.queue = .writeR8 r v :: .readF :: rest → SecondAnswers s (.byte (encodeF s.regs.f)))) ∧
    (∀ p v,
      (∀ q, s.queue = .writePair p v :: .readR8 q :: rest →
        SecondAnswers s (.byte
          (if q = p.high then BitVec.ofNat 8 (v.toNat / 256)
            else if p.low = .plain q then BitVec.ofNat 8 v.toNat else s.regs.get q))) ∧
      (∀ p', s.queue = .writePair p v :: .readPair p' :: rest →
        SecondAnswers s (.pair
          (if p' ≠ p then s.regs.getPair p' else if p.low = .flags then v &&& 0xFFF0#16 else v))) ∧
      (s.queue = .writePair p v :: .readF :: rest →
        SecondAnswers s (.byte
          (if p.low = .flags then BitVec.ofNat 8 v.toNat &&& 0xF0#8 else encodeF s.regs.f)))) ∧
    ∀ b,
      (s.queue = .writeF b :: .readF :: rest → SecondAnswers s (.byte (b &&& 0xF0#8))) ∧
      (∀ p, p.low = .flags → s.queue = .writeF b :: .readPair p :: rest →
        ∃ w, SecondAnswers s (.pair w) ∧ w.toNat = num s p.high * 256 + (b &&& 0xF0#8).toNat) ∧
      (∀ p q, p.low = .plain q → s.queue = .writeF b :: .readPair p :: rest →
        SecondAnswers s (.pair (s.regs.getPair p))) ∧
      (∀ q, s.queue = .writeF b :: .readR8 q :: rest → SecondAnswers s (.byte (s.regs.get q)))

/-- Each transaction sees what the one before it left, whatever that was (R103, R44): after any transaction
that completes in `u`, a READ_R8, READ_F or READ_PAIR answers the register, the packed flags or the pair of
`u`, and an EXEC of a code that decodes to `i` leaves the registers and flags that `exec i` leaves from `u`.
The host paths and RESET are the spec's own decisions D8 and D19, the order D11 (notes/assumptions/11.md);
the stream and the reply that holds the answer are the model's choice (notes/assumptions/2.md, 5.md). -/
def Obligations.NextTransactionSeesTheOneBefore : Prop :=
  ∀ (x y : Transaction) (rest : List Transaction) (s u : State),
    s.queue = x :: y :: rest → perform x { s with queue := y :: rest } = .next u →
    (∀ q, y = .readR8 q → SecondAnswers s (.byte (u.regs.get q))) ∧
    (y = .readF → SecondAnswers s (.byte (encodeF u.regs.f))) ∧
    (∀ p, y = .readPair p → SecondAnswers s (.pair (u.regs.getPair p))) ∧
    ∀ code i, y = .exec code → decode code = some i →
      ∃ w t, exec i u = .next w ∧ core.run 2 s = .next t ∧ t.regs = w.regs

/-- The carry and the result of one EXEC are what the next one computes on (R103): ADD A,r then ADC A,q adds
the old or, for q = A, the new register and the carry of the first sum, and SUB r then SBC A,q likewise with
the borrow; the final carry is that of the second operation. A as operand and destination is the spec's own
decision D2, the C flag as carry-in D3, the order D11 (notes/assumptions/8.md, 9.md); the stream's form is
the model's choice (notes/assumptions/2.md). -/
def Obligations.CarryChainsFromExecToExec : Prop :=
  ∀ (c d : Byte) (r q : R8) (rest : List Transaction) (s : State),
    s.queue = .exec c :: .exec d :: rest →
    (decode c = some (Instr.ofForm (.op8 .add r)) → decode d = some (Instr.ofForm (.op8 .adc q)) →
      ∃ t, core.run 2 s = .next t ∧
        let sum := num s .a + num s r
        let second := sum % 256 + (if q = .a then sum % 256 else num s q) + if sum ≥ 256 then 1 else 0
        num t .a = second % 256 ∧ (t.regs.f.c = true ↔ second ≥ 256)) ∧
    (decode c = some (Instr.ofForm (.op8 .sub r)) → decode d = some (Instr.ofForm (.op8 .sbc q)) →
      ∃ t, core.run 2 s = .next t ∧
        let diff := (256 + num s .a - num s r) % 256
        let taken := (if q = .a then diff else num s q) + if num s .a < num s r then 1 else 0
        num t .a = (256 + diff - taken) % 256 ∧ (t.regs.f.c = true ↔ diff < taken))

/-- RESET (R98; a transaction by the spec's own decision D19, notes/assumptions/11.md): from every state the
whole block goes to zero. That the stream, the parameters and the position stand across a RESET, R98 does
not say: it is the model's choice (notes/assumptions/1.md, 2.md, 4.md). -/
def Obligations.ResetTransactionZeroesBlock : Prop :=
  ∀ s : State, ∃ t, perform .reset s = .next t ∧ (∀ r, t.regs.get r = 0x00#8) ∧
    t.regs.f.z = false ∧ t.regs.f.n = false ∧ t.regs.f.h = false ∧ t.regs.f.c = false ∧
    t.queue = s.queue ∧ t.params = s.params ∧ t.pos = s.pos

/-- The reset values (R38): every register and flag of the machine after reset, the packed flags and every
pair are zero. -/
def Obligations.ResetValuesAreZero : Prop :=
  (∀ r, State.reset.regs.get r = 0x00#8) ∧
  State.reset.regs.f.z = false ∧ State.reset.regs.f.n = false ∧
  State.reset.regs.f.h = false ∧ State.reset.regs.f.c = false ∧
  encodeF State.reset.regs.f = 0x00#8 ∧ ∀ p, State.reset.regs.getPair p = 0x0000#16

/-! ### The step and the stream -/

/-- A step runs the decoded instruction: with an EXEC whose code decodes to `i` next in the stream, the
step is `exec i` on the state with that transaction taken off, and OK and the position's advance by one
after it (R61, R71; the stream's form is the model's choice, notes/assumptions/2.md, 4.md, 5.md). -/
def Obligations.StepRunsDecodedInstruction : Prop :=
  ∀ (code : Byte) (i : Instr) (rest : List Transaction) (s : State),
    s.queue = .exec code :: rest → decode code = some i →
    ∃ t, exec i { s with queue := rest } = .next t ∧
      step s = .next { t with pos := s.pos + 1, reply := .ok }

/-- An unimplemented code (R84, R90; the spec's own decision D7): the step faults with the code, the
stream position and the register file unchanged. The stream's and the position's form and what the fault
carries are the model's choice (notes/assumptions/2.md, 4.md, 6.md). -/
def Obligations.UnimplementedCodeFaultsUnchanged : Prop :=
  ∀ (code : Byte) (rest : List Transaction) (s : State),
    s.queue = .exec code :: rest → decode code = none →
    step s = .fault (.unimplemented code s.pos s.regs)

/-- No other exceptional condition exists (R85): no instruction stops on any operand value, no read, write
or reset transaction stops, and an EXEC that does not answer a next state was given a code that does not
decode. -/
def Obligations.OnlyUnimplementedCodesFault : Prop :=
  (∀ (i : Instr) (s : State), ∃ t, exec i s = .next t) ∧
  (∀ (x : Transaction) (s : State), (∀ code, x ≠ .exec code) → ∃ t, perform x s = .next t) ∧
  (∀ (code : Byte) (s : State), (∀ t, perform (.exec code) s ≠ .next t) → decode code = none)

/-- A step is never refused, and the only fault it can end in is the unimplemented one, at an EXEC, with
the code, the position and the register file as they stand (R85, R86, the spec's own decision D7). The
stream's and the position's form and what the fault carries are the model's choice (notes/assumptions/2.md,
4.md, 6.md). -/
def Obligations.StepStopsOnlyAsUnimplemented : Prop :=
  (∀ (s : State) (q : Refusal), step s ≠ .refused q) ∧
  ∀ (s : State) (e : Fault), step s = .fault e →
    ∃ code rest, s.queue = .exec code :: rest ∧ decode code = none ∧
      e = .unimplemented code s.pos s.regs

/-- With its stream finished the block is idle and keeps its whole state (R97, the spec's own decision
D17; that a step may then be taken at all is the model's choice, notes/assumptions/3.md). -/
def Obligations.IdleKeepsTheState : Prop :=
  ∀ s : State, s.Finished → step s = .next s

/-- Transactions are performed in issue order (R44, the spec's own decision D11): a step performs the first
of the stream on the state with it taken off. The stream's form is the model's choice
(notes/assumptions/2.md). -/
def Obligations.StepPerformsTheNextTransaction : Prop :=
  ∀ (x : Transaction) (rest : List Transaction) (s : State),
    s.queue = x :: rest → step s = perform x { s with queue := rest }

/-- Whatever the transaction, a step takes exactly one off the stream, none skipped and none repeated (R44,
the spec's own decision D11; the stream's form is the model's choice, notes/assumptions/2.md), and it does
not change the parameters (R30; their place is the model's choice, notes/assumptions/1.md). -/
def Obligations.StepTakesOneTransaction : Prop :=
  ∀ s t : State, step s = .next t → t.queue = s.queue.tail ∧ t.params = s.params

/-- The invariant of a run, kept by every step: the parameters are those the block was built with (R30),
and the stream position plus the codes still to come is the length of the stream (R71, the spec's own
decision D9: each OK instruction advances the position by exactly one code). That no host transaction and no
RESET moves the position, and the form of parameters, stream and position, is the model's choice
(notes/assumptions/1.md, 2.md, 4.md). -/
def Obligations.StreamPlaceIsInvariant : Prop :=
  ∀ (p : Config) (n : Nat) (s t : State), s.AtStream p n → step s = .next t → t.AtStream p n

/-- The invariant holds at reset, with the default parameters (R9), position 0 (R71) and an empty stream,
and so does the safety of the stream; the place of these three in the state and the empty stream are the
model's choice (notes/assumptions/1.md, 2.md, 4.md). -/
def Obligations.StreamPlaceHoldsAtReset : Prop :=
  State.reset.AtStream Config.default 0 ∧ State.reset.StreamSafe

/-- A stream without unimplemented codes never stops the block, and stays such a stream: from every state
with a safe stream a step answers a next state with a safe stream (R85, R72; the stream's form is the
model's choice, notes/assumptions/2.md). -/
def Obligations.SafeStreamNeverStops : Prop :=
  ∀ s : State, s.StreamSafe → ∃ t, step s = .next t ∧ t.StreamSafe

/-- A run over any stream of in-scope codes ends normally after exactly as many steps as it has codes, at
a position that many further (R71, the spec's own decisions D7 and D9). The form of parameters, stream and
position is the model's choice (notes/assumptions/1.md, 2.md, 4.md). -/
def Obligations.RunOfInScopeCodesEnds : Prop :=
  ∀ (codes : List Byte) (rest : List Transaction) (s : State),
    (∀ c ∈ codes, decode c ≠ none) → s.queue = codes.map .exec ++ rest →
    ∃ t, core.run codes.length s = .next t ∧ t.queue = rest ∧
      t.pos = s.pos + codes.length ∧ t.params = s.params

/-- A run that meets an unimplemented code stops there with the fault (Unimplemented, code, position), and
the register file it leaves is the one the codes before it made (R71, R86, the spec's own decisions D7
and D9). The form of stream and position and what the fault carries are the model's choice
(notes/assumptions/2.md, 4.md, 6.md). -/
def Obligations.RunStopsAtFirstUnimplemented : Prop :=
  ∀ (codes : List Byte) (bad : Byte) (rest : List Transaction) (s : State),
    (∀ c ∈ codes, decode c ≠ none) → decode bad = none →
    s.queue = codes.map .exec ++ .exec bad :: rest →
    ∃ t, core.run codes.length s = .next t ∧
      ∀ k, core.run (codes.length + 1 + k) s =
        .fault (.unimplemented bad (s.pos + codes.length) t.regs)

/-- The host's fetch word: from every state, with the code of any instruction put in as the very next
EXEC, the step runs exactly that instruction and leaves the rest of the stream (R48, R61; the layout is the
spec's own decision D1, notes/assumptions/7.md). How the word is put in, the position and the reply are the
model's choice (notes/assumptions/2.md, 4.md, 5.md). -/
def Obligations.FetchWordRunsThatInstruction : Prop :=
  ∀ (i : Instr) (s : State), ∃ t, exec i s = .next t ∧
    step (s.withFetchWord 8 (encode i).toNat) = .next { t with pos := s.pos + 1, reply := .ok }
end

