-- ==== Sys2Proof/Laws/State.lean ====
section
/-! SUPPORT. One lemma per field per named update of the register file and the state, and reads of a
register after a write. -/

namespace Sys2Proof.Machine

/-! ### The register file -/

@[simp] theorem RegFile.setFlags_f (f : RegFile) (fl : Flags) : (f.setFlags fl).f = fl := rfl

@[simp] theorem RegFile.setFlags_get (f : RegFile) (fl : Flags) (r : R8) :
    (f.setFlags fl).get r = f.get r := by cases r <;> rfl

@[simp] theorem RegFile.set_f (f : RegFile) (r : R8) (v : Byte) : (f.set r v).f = f.f := by
  cases r <;> rfl

@[simp] theorem RegFile.set_get_self (f : RegFile) (r : R8) (v : Byte) : (f.set r v).get r = v := by
  cases r <;> rfl

/-- A write of one register leaves the others. -/
theorem RegFile.set_get_other (f : RegFile) {r q : R8} (v : Byte) (h : q ≠ r) :
    (f.set r v).get q = f.get q := by
  cases r <;> cases q <;> first | rfl | exact absurd rfl h

theorem RegFile.set_get (f : RegFile) (r q : R8) (v : Byte) :
    (f.set r v).get q = if q = r then v else f.get q := by
  split
  · next h => subst h; exact f.set_get_self q v
  · next h => exact f.set_get_other v h

/-- Two register files with the same registers and flags are the same. -/
theorem RegFile.ext_get {f g : RegFile} (h : ∀ r, f.get r = g.get r) (hf : f.f = g.f) : f = g := by
  have ha := h .a
  have hb := h .b
  have hc := h .c
  have hd := h .d
  have he := h .e
  have hh := h .h
  have hl := h .l
  cases f; cases g
  simp_all [RegFile.get]

/-! ### The state -/

@[simp] theorem returnOk_regs (s : State) : (returnOk s).regs = s.regs := rfl
@[simp] theorem returnOk_params (s : State) : (returnOk s).params = s.params := rfl
@[simp] theorem returnOk_queue (s : State) : (returnOk s).queue = s.queue := rfl
@[simp] theorem returnOk_pos (s : State) : (returnOk s).pos = s.pos + 1 := rfl
@[simp] theorem returnOk_reply (s : State) : (returnOk s).reply = .ok := rfl

@[simp] theorem issue_regs (t : Transaction) (s : State) : (issue t s).regs = s.regs := rfl
@[simp] theorem issue_params (t : Transaction) (s : State) : (issue t s).params = s.params := rfl
@[simp] theorem issue_queue (t : Transaction) (s : State) : (issue t s).queue = t :: s.queue := rfl
@[simp] theorem issue_pos (t : Transaction) (s : State) : (issue t s).pos = s.pos := rfl
@[simp] theorem issue_reply (t : Transaction) (s : State) : (issue t s).reply = s.reply := rfl

@[simp] theorem State.withFetchWord_regs (s : State) (n w : Nat) : (s.withFetchWord n w).regs = s.regs := rfl
@[simp] theorem State.withFetchWord_params (s : State) (n w : Nat) :
    (s.withFetchWord n w).params = s.params := rfl
@[simp] theorem State.withFetchWord_queue (s : State) (n w : Nat) :
    (s.withFetchWord n w).queue = .exec (tableCode n w) :: s.queue := rfl
@[simp] theorem State.withFetchWord_pos (s : State) (n w : Nat) : (s.withFetchWord n w).pos = s.pos := rfl
@[simp] theorem State.withFetchWord_reply (s : State) (n w : Nat) : (s.withFetchWord n w).reply = s.reply := rfl

end Sys2Proof.Machine
end

