-- ==== Sys2Proof/Laws/Ops.lean ====
section
/-! SUPPORT. Everything each shared operation can do, said once: the writebacks, the pair accesses and
the exceptional condition. -/

namespace Sys2Proof.Machine

theorem writeback8_next {r : R8} {res : Byte} {fl : Flags} {s t : State}
    (h : writeback8 r res fl s = .next t) :
    t.regs.get r = res ∧ t.regs.f = fl ∧ (∀ q, q ≠ r → t.regs.get q = s.regs.get q) ∧
      t.params = s.params ∧ t.queue = s.queue ∧ t.pos = s.pos ∧ t.reply = s.reply := by
  cases h
  refine ⟨by simp, rfl, fun q hq => ?_, rfl, rfl, rfl, rfl⟩
  simp [RegFile.set_get_other _ _ hq]

theorem writebackFlags_next {fl : Flags} {s t : State} (h : writebackFlags fl s = .next t) :
    t.regs.f = fl ∧ (∀ q, t.regs.get q = s.regs.get q) ∧
      t.params = s.params ∧ t.queue = s.queue ∧ t.pos = s.pos ∧ t.reply = s.reply := by
  cases h
  exact ⟨rfl, fun q => by simp, rfl, rfl, rfl, rfl⟩

theorem writebackHl_next {res : PairWord} {fl : Flags} {s t : State} (h : writebackHl res fl s = .next t) :
    t.regs.get .h = res.extractLsb 15 8 ∧ t.regs.get .l = res.extractLsb 7 0 ∧ t.regs.f = fl ∧
      (∀ q, q ≠ .h → q ≠ .l → t.regs.get q = s.regs.get q) ∧
      t.params = s.params ∧ t.queue = s.queue ∧ t.pos = s.pos ∧ t.reply = s.reply := by
  cases h
  refine ⟨rfl, rfl, rfl, fun q hh hl => ?_, rfl, rfl, rfl, rfl⟩
  cases q <;> first | rfl | contradiction

/-- The unimplemented condition is a fault and never a next state (R84, R86). -/
theorem raiseUnimplemented_ne_next (code : Byte) (s t : State) : raiseUnimplemented code s ≠ .next t := by
  simp [raiseUnimplemented]

/-- A pair as a number: high slot times 256 plus low slot (R24). -/
theorem RegFile.getPair_toNat (f : RegFile) (p : Pair) :
    (f.getPair p).toNat = (f.get p.high).toNat * 256 + (f.getLow p.low).toNat := by
  have := (f.getLow p.low).isLt
  simp only [RegFile.getPair, BitVec.toNat_append, Nat.shiftLeft_eq]
  rw [← Nat.shiftLeft_eq, ← Nat.shiftLeft_add_eq_or_of_lt (by omega), Nat.shiftLeft_eq]

/-- A pair write as a read of any register sees it (R25, R27). -/
theorem RegFile.setPair_get (f : RegFile) (p : Pair) (v : PairWord) (q : R8) :
    (f.setPair p v).get q = if q = p.high then v.extractLsb 15 8
      else if p.low = .plain q then v.extractLsb 7 0 else f.get q := by
  cases p <;> cases q <;> rfl

/-- A pair write as a read of the flags sees it (R25). -/
theorem RegFile.setPair_f (f : RegFile) (p : Pair) (v : PairWord) :
    (f.setPair p v).f = if p.low = .flags then decodeF (v.extractLsb 7 0) else f.f := by
  cases p <;> rfl

/-- The high and low byte of a pair value, as numbers (R25). -/
theorem high_toNat (v : PairWord) : (v.extractLsb 15 8).toNat = v.toNat / 256 := by
  have := v.isLt
  simp only [BitVec.extractLsb_toNat, Nat.shiftRight_eq_div_pow]
  omega

theorem low_toNat (v : PairWord) : (v.extractLsb 7 0).toNat = v.toNat % 256 := by
  simp [BitVec.extractLsb_toNat]

end Sys2Proof.Machine
end

