-- ==== Sys2Proof/Laws/Exec.lean ====
section
/-! SUPPORT. The meanings by instruction shape: `exec` on a row of the opcode table is the shared meaning
of its Instruction value (30_encoding.md R49), and every meaning answers a next state. -/

namespace Sys2Proof

@[simp] theorem Instr.form_ofForm (f : Form) : (Instr.ofForm f).form = f := by
  cases f with
  | op8 k r => cases k <;> cases r <;> rfl
  | inc r => cases r <;> rfl
  | dec r => cases r <;> rfl
  | addHl p => cases p <;> rfl

@[simp] theorem Instr.ofForm_form (i : Instr) : Instr.ofForm i.form = i := by cases i <;> rfl

namespace Machine

/-- The meaning of an Instruction value. -/
def execForm (f : Form) (s : State) : Host.Outcome State Fault Refusal :=
  match f with
  | .op8 .add r => addR r s
  | .op8 .adc r => adcR r s
  | .op8 .sub r => subR r s
  | .op8 .sbc r => sbcR r s
  | .op8 .and r => andR r s
  | .op8 .xor r => xorR r s
  | .op8 .or r => orR r s
  | .op8 .cp r => cpR r s
  | .inc r => incR r s
  | .dec r => decR r s
  | .addHl p => addHlPair p s

theorem exec_eq_execForm (i : Instr) (s : State) : exec i s = execForm i.form s := by cases i <;> rfl

theorem exec_ofForm (f : Form) (s : State) : exec (Instr.ofForm f) s = execForm f s := by
  rw [exec_eq_execForm, Instr.form_ofForm]

/-- What any meaning does: it writes one register with the flags, the flags alone, or HL with the flags. -/
theorem execForm_cases (f : Form) (s : State) :
    (∃ r res fl, execForm f s = writeback8 r res fl s ∧
      ((∃ k q, f = .op8 k q ∧ k ≠ .cp ∧ r = .a) ∨ f = .inc r ∨ f = .dec r)) ∨
    (∃ r fl, f = .op8 .cp r ∧ execForm f s = writebackFlags fl s) ∨
    (∃ p res fl, f = .addHl p ∧ execForm f s = writebackHl res fl s) := by
  cases f with
  | op8 k r =>
    cases k with
    | cp => exact .inr (.inl ⟨_, _, rfl, rfl⟩)
    | _ => exact .inl ⟨.a, _, _, rfl, .inl ⟨_, _, rfl, by simp, rfl⟩⟩
  | inc r => exact .inl ⟨r, _, _, rfl, .inr (.inl rfl)⟩
  | dec r => exact .inl ⟨r, _, _, rfl, .inr (.inr rfl)⟩
  | addHl p => exact .inr (.inr ⟨_, _, _, rfl, rfl⟩)

/-- A meaning only replaces the register file. -/
theorem exec_writes_regs_only (i : Instr) (s : State) : ∃ f, exec i s = .next { s with regs := f } := by
  rw [exec_eq_execForm]
  rcases execForm_cases i.form s with ⟨_, _, _, h, _⟩ | ⟨_, _, _, h⟩ | ⟨_, _, _, _, h⟩ <;>
    exact ⟨_, h⟩

/-- A meaning reads the register file and the parameters alone: from two states that agree on these it
writes the same register file, whatever their streams, positions and replies. -/
theorem exec_reads_regs_and_params (i : Instr) {s s' : State} (hr : s'.regs = s.regs)
    (hp : s'.params = s.params) :
    ∃ f, exec i s = .next { s with regs := f } ∧ exec i s' = .next { s' with regs := f } := by
  cases s; cases s'; cases hr; cases hp
  cases i <;> exact ⟨_, rfl, rfl⟩

end Machine

end Sys2Proof
end

