-- ==== Sys2Proof/Laws/Flags.lean ====
section
/-! SUPPORT. What the flag helpers (40_executor.md R67 to R70) and the wraparound arithmetic (R66) say
of the operands' numbers: the form in which `omega` can use them. -/

namespace Sys2Proof.Machine

theorem nibble_eq (v : Byte) : nibble v = v.toNat % 16 :=
  Nat.and_two_pow_sub_one_eq_mod v.toNat 4

theorem sum8_toNat (a b : Byte) (cin : Nat) : (sum8 a b cin).toNat = (a.toNat + b.toNat + cin) % 256 := by
  simp [sum8]

theorem sum16_toNat (a b : PairWord) : (sum16 a b).toNat = (a.toNat + b.toNat) % 65536 := by
  simp [sum16]

/-- With a borrow-in of at most 1 the wrapped difference is a natural-number remainder. -/
theorem diff8_toNat (a b : Byte) (cin : Nat) (h : cin ≤ 1) :
    (diff8 a b cin).toNat = (256 + a.toNat - (b.toNat + cin)) % 256 := by
  have := a.isLt
  have := b.isLt
  simp only [diff8, BitVec.toNat_ofInt]
  omega

theorem bit_le_one (b : Bool) : bit b ≤ 1 := by cases b <;> decide

theorem bit_eq (b : Bool) : bit b = if b = true then 1 else 0 := rfl

theorem zero8_iff (r : Byte) : zero8 r = true ↔ r.toNat = 0 := by
  simp [zero8, ← BitVec.toNat_inj]

theorem zero16_iff (r : PairWord) : zero16 r = true ↔ r.toNat = 0 := by
  simp [zero16, ← BitVec.toNat_inj]

theorem hcAdd8_iff (a b : Byte) (cin : Nat) :
    hcAdd8 a b cin = true ↔ a.toNat % 16 + b.toNat % 16 + cin > 15 := by
  simp [hcAdd8, nibble_eq]

theorem cAdd8_iff (a b : Byte) (cin : Nat) : cAdd8 a b cin = true ↔ a.toNat + b.toNat + cin ≥ 256 := by
  simp only [cAdd8, decide_eq_true_eq]
  omega

theorem hcAdd16_iff (a b : PairWord) :
    hcAdd16 a b = true ↔ a.toNat % 4096 + b.toNat % 4096 > 4095 := by
  have h (v : PairWord) : v.toNat &&& 0xFFF = v.toNat % 4096 := Nat.and_two_pow_sub_one_eq_mod v.toNat 12
  simp [hcAdd16, h]

theorem cAdd16_iff (a b : PairWord) : cAdd16 a b = true ↔ a.toNat + b.toNat ≥ 65536 := by
  simp only [cAdd16, decide_eq_true_eq]
  omega

theorem cSub8_iff (a b : Byte) (cin : Nat) : cSub8 a b cin = true ↔ a.toNat < b.toNat + cin := by
  simp [cSub8]

theorem hbSub8_direct_iff (a b res : Byte) (cin : Nat) :
    hbSub8 .directBorrow a b cin res = true ↔ a.toNat % 16 < b.toNat % 16 + cin := by
  simp [hbSub8, nibble_eq]

theorem hbSub8_wrapped_iff (a b res : Byte) (cin : Nat) :
    hbSub8 .wrappedCompare a b cin res = true ↔ res.toNat % 16 > a.toNat % 16 := by
  simp [hbSub8, nibble_eq]

theorem hcInc8_iff (v : Byte) : hcInc8 v = true ↔ v.toNat % 16 = 15 := by
  simp [hcInc8, nibble_eq]

theorem hbDec8_iff (v : Byte) : hbDec8 v = true ↔ v.toNat % 16 = 0 := by
  simp [hbDec8, nibble_eq]

end Sys2Proof.Machine
end

