-- ==== Sys2Proof/Laws/PerInstr.lean ====
section
/-! SUPPORT. The per-instruction family Encoding: the code of an instruction is admitted by a format and
decodes to that instruction. -/

namespace Sys2Proof.Laws

/-- The instruction is well formed, its code is one of a format of R50, and it decodes to it (R55). -/
def Encoding.Statement (i : Instr) : Prop :=
  i.wellFormed = true ∧ codeOk (encode i) = true ∧ decode (encode i) = some i

theorem Encoding.addAB : Encoding.Statement .addAB := ⟨rfl, rfl, rfl⟩
theorem Encoding.addAC : Encoding.Statement .addAC := ⟨rfl, rfl, rfl⟩
theorem Encoding.addAD : Encoding.Statement .addAD := ⟨rfl, rfl, rfl⟩
theorem Encoding.addAE : Encoding.Statement .addAE := ⟨rfl, rfl, rfl⟩
theorem Encoding.addAH : Encoding.Statement .addAH := ⟨rfl, rfl, rfl⟩
theorem Encoding.addAL : Encoding.Statement .addAL := ⟨rfl, rfl, rfl⟩
theorem Encoding.addAA : Encoding.Statement .addAA := ⟨rfl, rfl, rfl⟩
theorem Encoding.adcAB : Encoding.Statement .adcAB := ⟨rfl, rfl, rfl⟩
theorem Encoding.adcAC : Encoding.Statement .adcAC := ⟨rfl, rfl, rfl⟩
theorem Encoding.adcAD : Encoding.Statement .adcAD := ⟨rfl, rfl, rfl⟩
theorem Encoding.adcAE : Encoding.Statement .adcAE := ⟨rfl, rfl, rfl⟩
theorem Encoding.adcAH : Encoding.Statement .adcAH := ⟨rfl, rfl, rfl⟩
theorem Encoding.adcAL : Encoding.Statement .adcAL := ⟨rfl, rfl, rfl⟩
theorem Encoding.adcAA : Encoding.Statement .adcAA := ⟨rfl, rfl, rfl⟩
theorem Encoding.subB : Encoding.Statement .subB := ⟨rfl, rfl, rfl⟩
theorem Encoding.subC : Encoding.Statement .subC := ⟨rfl, rfl, rfl⟩
theorem Encoding.subD : Encoding.Statement .subD := ⟨rfl, rfl, rfl⟩
theorem Encoding.subE : Encoding.Statement .subE := ⟨rfl, rfl, rfl⟩
theorem Encoding.subH : Encoding.Statement .subH := ⟨rfl, rfl, rfl⟩
theorem Encoding.subL : Encoding.Statement .subL := ⟨rfl, rfl, rfl⟩
theorem Encoding.subA : Encoding.Statement .subA := ⟨rfl, rfl, rfl⟩
theorem Encoding.sbcAB : Encoding.Statement .sbcAB := ⟨rfl, rfl, rfl⟩
theorem Encoding.sbcAC : Encoding.Statement .sbcAC := ⟨rfl, rfl, rfl⟩
theorem Encoding.sbcAD : Encoding.Statement .sbcAD := ⟨rfl, rfl, rfl⟩
theorem Encoding.sbcAE : Encoding.Statement .sbcAE := ⟨rfl, rfl, rfl⟩
theorem Encoding.sbcAH : Encoding.Statement .sbcAH := ⟨rfl, rfl, rfl⟩
theorem Encoding.sbcAL : Encoding.Statement .sbcAL := ⟨rfl, rfl, rfl⟩
theorem Encoding.sbcAA : Encoding.Statement .sbcAA := ⟨rfl, rfl, rfl⟩
theorem Encoding.andB : Encoding.Statement .andB := ⟨rfl, rfl, rfl⟩
theorem Encoding.andC : Encoding.Statement .andC := ⟨rfl, rfl, rfl⟩
theorem Encoding.andD : Encoding.Statement .andD := ⟨rfl, rfl, rfl⟩
theorem Encoding.andE : Encoding.Statement .andE := ⟨rfl, rfl, rfl⟩
theorem Encoding.andH : Encoding.Statement .andH := ⟨rfl, rfl, rfl⟩
theorem Encoding.andL : Encoding.Statement .andL := ⟨rfl, rfl, rfl⟩
theorem Encoding.andA : Encoding.Statement .andA := ⟨rfl, rfl, rfl⟩
theorem Encoding.xorB : Encoding.Statement .xorB := ⟨rfl, rfl, rfl⟩
theorem Encoding.xorC : Encoding.Statement .xorC := ⟨rfl, rfl, rfl⟩
theorem Encoding.xorD : Encoding.Statement .xorD := ⟨rfl, rfl, rfl⟩
theorem Encoding.xorE : Encoding.Statement .xorE := ⟨rfl, rfl, rfl⟩
theorem Encoding.xorH : Encoding.Statement .xorH := ⟨rfl, rfl, rfl⟩
theorem Encoding.xorL : Encoding.Statement .xorL := ⟨rfl, rfl, rfl⟩
theorem Encoding.xorA : Encoding.Statement .xorA := ⟨rfl, rfl, rfl⟩
theorem Encoding.orB : Encoding.Statement .orB := ⟨rfl, rfl, rfl⟩
theorem Encoding.orC : Encoding.Statement .orC := ⟨rfl, rfl, rfl⟩
theorem Encoding.orD : Encoding.Statement .orD := ⟨rfl, rfl, rfl⟩
theorem Encoding.orE : Encoding.Statement .orE := ⟨rfl, rfl, rfl⟩
theorem Encoding.orH : Encoding.Statement .orH := ⟨rfl, rfl, rfl⟩
theorem Encoding.orL : Encoding.Statement .orL := ⟨rfl, rfl, rfl⟩
theorem Encoding.orA : Encoding.Statement .orA := ⟨rfl, rfl, rfl⟩
theorem Encoding.cpB : Encoding.Statement .cpB := ⟨rfl, rfl, rfl⟩
theorem Encoding.cpC : Encoding.Statement .cpC := ⟨rfl, rfl, rfl⟩
theorem Encoding.cpD : Encoding.Statement .cpD := ⟨rfl, rfl, rfl⟩
theorem Encoding.cpE : Encoding.Statement .cpE := ⟨rfl, rfl, rfl⟩
theorem Encoding.cpH : Encoding.Statement .cpH := ⟨rfl, rfl, rfl⟩
theorem Encoding.cpL : Encoding.Statement .cpL := ⟨rfl, rfl, rfl⟩
theorem Encoding.cpA : Encoding.Statement .cpA := ⟨rfl, rfl, rfl⟩
theorem Encoding.incB : Encoding.Statement .incB := ⟨rfl, rfl, rfl⟩
theorem Encoding.incC : Encoding.Statement .incC := ⟨rfl, rfl, rfl⟩
theorem Encoding.incD : Encoding.Statement .incD := ⟨rfl, rfl, rfl⟩
theorem Encoding.incE : Encoding.Statement .incE := ⟨rfl, rfl, rfl⟩
theorem Encoding.incH : Encoding.Statement .incH := ⟨rfl, rfl, rfl⟩
theorem Encoding.incL : Encoding.Statement .incL := ⟨rfl, rfl, rfl⟩
theorem Encoding.incA : Encoding.Statement .incA := ⟨rfl, rfl, rfl⟩
theorem Encoding.decB : Encoding.Statement .decB := ⟨rfl, rfl, rfl⟩
theorem Encoding.decC : Encoding.Statement .decC := ⟨rfl, rfl, rfl⟩
theorem Encoding.decD : Encoding.Statement .decD := ⟨rfl, rfl, rfl⟩
theorem Encoding.decE : Encoding.Statement .decE := ⟨rfl, rfl, rfl⟩
theorem Encoding.decH : Encoding.Statement .decH := ⟨rfl, rfl, rfl⟩
theorem Encoding.decL : Encoding.Statement .decL := ⟨rfl, rfl, rfl⟩
theorem Encoding.decA : Encoding.Statement .decA := ⟨rfl, rfl, rfl⟩
theorem Encoding.addHlBc : Encoding.Statement .addHlBc := ⟨rfl, rfl, rfl⟩
theorem Encoding.addHlDe : Encoding.Statement .addHlDe := ⟨rfl, rfl, rfl⟩
theorem Encoding.addHlHl : Encoding.Statement .addHlHl := ⟨rfl, rfl, rfl⟩

end Sys2Proof.Laws
end

