-- ==== Sys2Proof/Laws/Step.lean ====
section
/-! SUPPORT. Everything one step can do, said once. -/

namespace Sys2Proof.Machine

/-- The step on a non-empty stream performs its first transaction. -/
theorem step_cons {x : Transaction} {rest : List Transaction} {s : State} (h : s.queue = x :: rest) :
    step s = perform x { s with queue := rest } := by
  simp [step, nextTransaction, h]

theorem step_nil {s : State} (h : s.queue = []) : step s = idle s := by
  simp [step, nextTransaction, h]

/-- EXEC of a code of the opcode map replaces the register file and returns OK. -/
theorem performExec_some {code : Byte} {i : Instr} (h : decode code = some i) (s : State) :
    ∃ f, exec i s = .next { s with regs := f } ∧
      performExec code s = .next { s with regs := f, pos := s.pos + 1, reply := .ok } := by
  obtain ⟨f, hf⟩ := exec_writes_regs_only i s
  exact ⟨f, hf, by simp [performExec, h, hf, finishExec, returnOk]⟩

theorem performExec_none {code : Byte} (h : decode code = none) (s : State) :
    performExec code s = .fault (.unimplemented code s.pos s.regs) := by
  simp [performExec, h, raiseUnimplemented]

/-- A transaction other than EXEC replaces the register file and the reply, and nothing else. -/
theorem perform_host (x : Transaction) (hx : x.isExec = false) (s : State) :
    ∃ f r, perform x s = .next { s with regs := f, reply := r } := by
  cases x with
  | exec code => cases hx
  | _ => exact ⟨_, _, rfl⟩

/-- Everything one transaction can do: fault at an unimplemented code, execute an instruction, or act on
the register file and the reply alone. -/
theorem perform_cases (x : Transaction) (s : State) :
    (∃ c, x = .exec c ∧ decode c = none ∧ perform x s = .fault (.unimplemented c s.pos s.regs)) ∨
    (∃ c i f, x = .exec c ∧ decode c = some i ∧ exec i s = .next { s with regs := f } ∧
      perform x s = .next { s with regs := f, pos := s.pos + 1, reply := .ok }) ∨
    (x.isExec = false ∧ ∃ f r, perform x s = .next { s with regs := f, reply := r }) := by
  cases hx : x.isExec with
  | false => exact .inr (.inr ⟨rfl, perform_host x hx s⟩)
  | true =>
    cases x with
    | exec c =>
      cases hd : decode c with
      | none => exact .inl ⟨c, rfl, hd, performExec_none hd s⟩
      | some i =>
        obtain ⟨f, hf, h⟩ := performExec_some hd s
        exact .inr (.inl ⟨c, i, f, rfl, hd, hf, h⟩)
    | _ => cases hx

/-- No transaction touches the rest of the stream. -/
theorem perform_next_queue {x : Transaction} {s t : State} (h : perform x s = .next t) :
    t.queue = s.queue := by
  rcases perform_cases x s with ⟨_, _, _, e⟩ | ⟨_, _, _, _, _, _, e⟩ | ⟨_, _, _, e⟩ <;>
    rw [e] at h <;> cases h <;> rfl

/-! ### Runs -/

theorem run_zero (s : State) : core.run 0 s = .next s := rfl

theorem run_next {s t : State} (h : step s = .next t) (k : Nat) : core.run (k + 1) s = core.run k t := by
  have h' : core.step s = .next t := h
  simp only [Host.Core.run, h']

/-- Two steps of a stream with two transactions in front. -/
theorem run_two {x y : Transaction} {rest : List Transaction} {s u t : State}
    (hq : s.queue = x :: y :: rest) (hx : perform x { s with queue := y :: rest } = .next u)
    (hu : u.queue = y :: rest) (hy : perform y { u with queue := rest } = .next t) :
    core.run 2 s = .next t := by
  rw [run_next ((step_cons hq).trans hx), run_next ((step_cons hu).trans hy), run_zero]

theorem run_fault {s : State} {e : Fault} (h : step s = .fault e) (k : Nat) :
    core.run (k + 1) s = .fault e := by
  have h' : core.step s = .fault e := h
  simp only [Host.Core.run, h']

theorem run_refused {s : State} {q : Refusal} (h : step s = .refused q) (k : Nat) :
    core.run (k + 1) s = .refused q := by
  have h' : core.step s = .refused q := h
  simp only [Host.Core.run, h']

end Sys2Proof.Machine
end

