-- ==== Sys2Proof/Tests/Slice0.lean ====
section
/-! SUPPORT. Tests of one step each. Every expected value is from the spec: the vectors of
95_test_vectors.md (their ids are in the docstrings), the opcode map of 30_encoding.md R56, the formats of
R50. The last part gives, for each statement with hypotheses, a state that meets them. -/

namespace Sys2Proof.Tests

open Sys2Proof Sys2Proof.Machine

/-- The all-zero register file the vectors start from. -/
def zero : RegFile := RegFile.reset

/-- A block with these registers and parameters, and these transactions issued. -/
def start (p : Config) (f : RegFile) (q : List Transaction) : State where
  regs := f
  params := p
  queue := q
  pos := 0
  reply := .nothing

/-- The register file and the reply after one step, if there is a next state. -/
def after (s : State) : Option (RegFile × Reply) :=
  match step s with
  | .next t => some (t.regs, t.reply)
  | .fault _ => none
  | .refused _ => none

/-- The fault of one step, if it is one. -/
def faultOf (s : State) : Option Fault :=
  match step s with
  | .next _ => none
  | .fault e => some e
  | .refused _ => none

/-- One EXEC for each (code, register file before, register file after). -/
def runAll (p : Config) (vectors : List (Byte × RegFile × RegFile)) : Bool :=
  vectors.all fun v => after (start p v.2.1 [.exec v.1]) == some (v.2.2, .ok)

/-! ### The well-formedness checks refuse (R51, R53, R50) -/

theorem test_regFieldOk_refuses : regFieldOk 0b110#3 = false := by decide
theorem test_pairFieldOk_refuses : pairFieldOk 0b11#2 = false := by decide
theorem test_alu8Ok_refuses_memory_operand : alu8Ok 0x86#8 = false := by decide
theorem test_alu8Ok_refuses_other_format : alu8Ok 0x04#8 = false := by decide
theorem test_incDecOk_refuses_memory_operand : incDecOk 0x34#8 = false ∧ incDecOk 0x35#8 = false := by decide
theorem test_incDecOk_refuses_other_format : incDecOk 0x06#8 = false := by decide
theorem test_add16Ok_refuses_sp : add16Ok 0x39#8 = false := by decide
theorem test_add16Ok_refuses_other_format : add16Ok 0x08#8 = false := by decide
theorem test_codeOk_refuses_nop_and_prefix : codeOk 0x00#8 = false ∧ codeOk 0xCB#8 = false := by decide

/-! ### Decoding, by words written out from R50 to R53 -/

/-- Format ALU8, `10 000 rrr`. -/
theorem test_decode_add :
    decode 0b10000000#8 = some .addAB ∧ decode 0b10000001#8 = some .addAC ∧
    decode 0b10000010#8 = some .addAD ∧ decode 0b10000011#8 = some .addAE ∧
    decode 0b10000100#8 = some .addAH ∧ decode 0b10000101#8 = some .addAL ∧
    decode 0b10000111#8 = some .addAA := by decide

/-- Format ALU8, `10 001 rrr`. -/
theorem test_decode_adc :
    decode 0b10001000#8 = some .adcAB ∧ decode 0b10001001#8 = some .adcAC ∧
    decode 0b10001010#8 = some .adcAD ∧ decode 0b10001011#8 = some .adcAE ∧
    decode 0b10001100#8 = some .adcAH ∧ decode 0b10001101#8 = some .adcAL ∧
    decode 0b10001111#8 = some .adcAA := by decide

/-- Format ALU8, `10 010 rrr`. -/
theorem test_decode_sub :
    decode 0b10010000#8 = some .subB ∧ decode 0b10010001#8 = some .subC ∧
    decode 0b10010010#8 = some .subD ∧ decode 0b10010011#8 = some .subE ∧
    decode 0b10010100#8 = some .subH ∧ decode 0b10010101#8 = some .subL ∧
    decode 0b10010111#8 = some .subA := by decide

/-- Format ALU8, `10 011 rrr`. -/
theorem test_decode_sbc :
    decode 0b10011000#8 = some .sbcAB ∧ decode 0b10011001#8 = some .sbcAC ∧
    decode 0b10011010#8 = some .sbcAD ∧ decode 0b10011011#8 = some .sbcAE ∧
    decode 0b10011100#8 = some .sbcAH ∧ decode 0b10011101#8 = some .sbcAL ∧
    decode 0b10011111#8 = some .sbcAA := by decide

/-- Format ALU8, `10 100 rrr`. -/
theorem test_decode_and :
    decode 0b10100000#8 = some .andB ∧ decode 0b10100001#8 = some .andC ∧
    decode 0b10100010#8 = some .andD ∧ decode 0b10100011#8 = some .andE ∧
    decode 0b10100100#8 = some .andH ∧ decode 0b10100101#8 = some .andL ∧
    decode 0b10100111#8 = some .andA := by decide

/-- Format ALU8, `10 101 rrr`. -/
theorem test_decode_xor :
    decode 0b10101000#8 = some .xorB ∧ decode 0b10101001#8 = some .xorC ∧
    decode 0b10101010#8 = some .xorD ∧ decode 0b10101011#8 = some .xorE ∧
    decode 0b10101100#8 = some .xorH ∧ decode 0b10101101#8 = some .xorL ∧
    decode 0b10101111#8 = some .xorA := by decide

/-- Format ALU8, `10 110 rrr`. -/
theorem test_decode_or :
    decode 0b10110000#8 = some .orB ∧ decode 0b10110001#8 = some .orC ∧
    decode 0b10110010#8 = some .orD ∧ decode 0b10110011#8 = some .orE ∧
    decode 0b10110100#8 = some .orH ∧ decode 0b10110101#8 = some .orL ∧
    decode 0b10110111#8 = some .orA := by decide

/-- Format ALU8, `10 111 rrr`. -/
theorem test_decode_cp :
    decode 0b10111000#8 = some .cpB ∧ decode 0b10111001#8 = some .cpC ∧
    decode 0b10111010#8 = some .cpD ∧ decode 0b10111011#8 = some .cpE ∧
    decode 0b10111100#8 = some .cpH ∧ decode 0b10111101#8 = some .cpL ∧
    decode 0b10111111#8 = some .cpA := by decide

/-- Format INCDEC, `00 rrr 10 0`. -/
theorem test_decode_inc :
    decode 0b00000100#8 = some .incB ∧ decode 0b00001100#8 = some .incC ∧
    decode 0b00010100#8 = some .incD ∧ decode 0b00011100#8 = some .incE ∧
    decode 0b00100100#8 = some .incH ∧ decode 0b00101100#8 = some .incL ∧
    decode 0b00111100#8 = some .incA := by decide

/-- Format INCDEC, `00 rrr 10 1`. -/
theorem test_decode_dec :
    decode 0b00000101#8 = some .decB ∧ decode 0b00001101#8 = some .decC ∧
    decode 0b00010101#8 = some .decD ∧ decode 0b00011101#8 = some .decE ∧
    decode 0b00100101#8 = some .decH ∧ decode 0b00101101#8 = some .decL ∧
    decode 0b00111101#8 = some .decA := by decide

/-- Format ADD16, `00 pp 1001`. -/
theorem test_decode_addHl :
    decode 0b00001001#8 = some .addHlBc ∧ decode 0b00011001#8 = some .addHlDe ∧
    decode 0b00101001#8 = some .addHlHl := by decide

/-- A table word with nothing above its eight bits, and one of a byte outside the map. -/
theorem test_decodeTableWord : decodeTableWord 8 0x29 = some .addHlHl ∧ decodeTableWord 8 0x39 = none := by
  decide

/-! ### Flags register, pairs, host paths and reset (95_test_vectors.md section 2) -/

/-- V-F-1 (R20). -/
theorem test_encodeF : encodeF ⟨true, false, true, false⟩ = 0xA0#8 := by decide

/-- V-F-2 to V-F-5: WRITE_F, then the packed byte (R36, R35). -/
theorem test_writeF :
    ([(0xFF#8, 0xF0#8), (0x0F#8, 0x00#8), (0x5A#8, 0x50#8), (0x3C#8, 0x30#8)].all fun v =>
      (after (start .default zero [.writeF v.1])).map (fun r => encodeF r.1.f) == some v.2) = true := by
  decide

/-- V-F-4: the flags behind the byte (R37). -/
theorem test_flagOutputs :
    flagOutputs (start .default { zero with f := decodeF 0x5A#8 } []) = ⟨false, true, false, true⟩ := by
  decide

/-- V-P-1: WRITE_PAIR of AF (R25). -/
theorem test_writePair_af :
    after (start .default zero [.writePair .af 0x12FF#16]) =
      some ({ zero with a := 0x12#8, f := ⟨true, true, true, true⟩ }, .nothing) := by decide

/-- V-P-1: READ_PAIR of AF (R24). -/
theorem test_readPair_af :
    (after (start .default { zero with a := 0x12#8, f := ⟨true, true, true, true⟩ }
      [.readPair .af])).map Prod.snd = some (.pair 0x12F0#16) := by decide

/-- V-P-2: WRITE_PAIR of BC (R25). -/
theorem test_writePair_bc :
    after (start .default zero [.writePair .bc 0xBEEF#16]) =
      some ({ zero with b := 0xBE#8, c := 0xEF#8 }, .nothing) := by decide

/-- V-P-3: READ_PAIR of HL (R27). -/
theorem test_readPair_hl :
    (after (start .default { zero with h := 0xAB#8, l := 0xCD#8 } [.readPair .hl])).map Prod.snd =
      some (.pair 0xABCD#16) := by decide

/-- V-P-4: the low byte of DE is E (R24). -/
theorem test_readPair_de :
    (after (start .default { zero with e := 0x01#8 } [.readPair .de])).map Prod.snd =
      some (.pair 0x0001#16) := by decide

/-- V-P-3: WRITE_R8 (R34). -/
theorem test_writeR8 :
    after (start .default zero [.writeR8 .h 0xAB#8]) = some ({ zero with h := 0xAB#8 }, .nothing) := by
  decide

/-- V-R-1: RESET (R98). -/
theorem test_reset :
    after (start .default { zero with a := 0x12#8, l := 0xFF#8, f := ⟨true, true, true, true⟩ } [.reset]) =
      some (zero, .nothing) := by decide

/-! ### Instructions (95_test_vectors.md section 3) -/

/-- V-ADD-1 to V-ADD-9 (R73). -/
theorem test_add : runAll (Config.default)
    [(0x80#8, { zero with a := 0x3A#8, b := 0xC6#8 },
      { zero with b := 0xC6#8, f := decodeF 0xB0#8 }),
     (0x80#8, { zero with a := 0x0F#8, b := 0x01#8 },
      { zero with a := 0x10#8, b := 0x01#8, f := decodeF 0x20#8 }),
     (0x81#8, { zero with a := 0xF0#8, c := 0x10#8 },
      { zero with c := 0x10#8, f := decodeF 0x90#8 }),
     (0x82#8, { zero with a := 0x12#8, d := 0x34#8 },
      { zero with a := 0x46#8, d := 0x34#8 }),
     (0x80#8, { zero with f := decodeF 0xF0#8 },
      { zero with f := decodeF 0x80#8 }),
     (0x87#8, { zero with a := 0x88#8 },
      { zero with a := 0x10#8, f := decodeF 0x30#8 }),
     (0x87#8, { zero with a := 0x80#8 },
      { zero with f := decodeF 0x90#8 }),
     (0x85#8, { zero with a := 0xFF#8, l := 0x01#8 },
      { zero with l := 0x01#8, f := decodeF 0xB0#8 }),
     (0x84#8, { zero with a := 0x08#8, h := 0x08#8 },
      { zero with a := 0x10#8, h := 0x08#8, f := decodeF 0x20#8 })] = true := by decide

/-- V-ADC-1 to V-ADC-7 (R74). -/
theorem test_adc : runAll (Config.default)
    [(0x88#8, { zero with a := 0x8F#8, b := 0x01#8, f := decodeF 0x10#8 },
      { zero with a := 0x91#8, b := 0x01#8, f := decodeF 0x20#8 }),
     (0x88#8, { zero with b := 0xFF#8, f := decodeF 0x10#8 },
      { zero with b := 0xFF#8, f := decodeF 0xB0#8 }),
     (0x89#8, { zero with a := 0x0E#8, c := 0x01#8, f := decodeF 0x10#8 },
      { zero with a := 0x10#8, c := 0x01#8, f := decodeF 0x20#8 }),
     (0x89#8, { zero with a := 0x0E#8, c := 0x01#8 },
      { zero with a := 0x0F#8, c := 0x01#8 }),
     (0x8A#8, { zero with a := 0xFE#8, d := 0x01#8, f := decodeF 0x10#8 },
      { zero with d := 0x01#8, f := decodeF 0xB0#8 }),
     (0x8F#8, { zero with a := 0x80#8, f := decodeF 0x10#8 },
      { zero with a := 0x01#8, f := decodeF 0x10#8 }),
     (0x8B#8, { zero with a := 0x12#8, e := 0x34#8, f := decodeF 0xE0#8 },
      { zero with a := 0x46#8, e := 0x34#8 })] = true := by decide

/-- V-ADDHL-1 to V-ADDHL-7 (R75). -/
theorem test_addHl : runAll (Config.default)
    [(0x29#8, { zero with h := 0x0F#8, l := 0xFF#8 },
      { zero with h := 0x1F#8, l := 0xFE#8, f := decodeF 0x20#8 }),
     (0x29#8, { zero with h := 0xFF#8, l := 0xFF#8 },
      { zero with h := 0xFF#8, l := 0xFE#8, f := decodeF 0x30#8 }),
     (0x09#8, { zero with b := 0x80#8, h := 0x80#8 },
      { zero with b := 0x80#8, f := decodeF 0x90#8 }),
     (0x19#8, { zero with e := 0x01#8, l := 0xFF#8 },
      { zero with e := 0x01#8, h := 0x01#8 }),
     (0x09#8, { zero with f := decodeF 0x50#8 },
      { zero with f := decodeF 0x80#8 }),
     (0x19#8, { zero with a := 0x77#8, d := 0x0D#8, e := 0xCC#8, h := 0x12#8, l := 0x34#8 },
      { zero with a := 0x77#8, d := 0x0D#8, e := 0xCC#8, h := 0x20#8, f := decodeF 0x20#8 }),
     (0x09#8, { zero with b := 0x10#8, h := 0xF0#8 },
      { zero with b := 0x10#8, f := decodeF 0x90#8 })] = true := by decide

/-- V-ADDHL-P-1 to V-ADDHL-P-3 (R75). -/
theorem test_addHl_preserve : runAll ({ Config.default with addHlZMode := .preserve })
    [(0x09#8, { zero with b := 0x80#8, h := 0x80#8 },
      { zero with b := 0x80#8, f := decodeF 0x10#8 }),
     (0x09#8, { zero with b := 0x80#8, h := 0x80#8, f := decodeF 0x80#8 },
      { zero with b := 0x80#8, f := decodeF 0x90#8 }),
     (0x29#8, { zero with l := 0x01#8, f := decodeF 0x80#8 },
      { zero with l := 0x02#8, f := decodeF 0x80#8 })] = true := by decide

/-- V-SUB-1 to V-SUB-7 (R76). -/
theorem test_sub : runAll (Config.default)
    [(0x90#8, { zero with a := 0x20#8, b := 0x31#8 },
      { zero with a := 0xEF#8, b := 0x31#8, f := decodeF 0x70#8 }),
     (0x97#8, { zero with a := 0x5A#8 },
      { zero with f := decodeF 0xC0#8 }),
     (0x91#8, { zero with c := 0x01#8 },
      { zero with a := 0xFF#8, c := 0x01#8, f := decodeF 0x70#8 }),
     (0x92#8, { zero with a := 0x3E#8, d := 0x3E#8 },
      { zero with d := 0x3E#8, f := decodeF 0xC0#8 }),
     (0x93#8, { zero with a := 0x10#8, e := 0x01#8 },
      { zero with a := 0x0F#8, e := 0x01#8, f := decodeF 0x60#8 }),
     (0x94#8, { zero with a := 0x05#8, h := 0x10#8 },
      { zero with a := 0xF5#8, h := 0x10#8, f := decodeF 0x50#8 }),
     (0x95#8, { zero with a := 0x80#8, l := 0x7F#8, f := decodeF 0x10#8 },
      { zero with a := 0x01#8, l := 0x7F#8, f := decodeF 0x60#8 })] = true := by decide

/-- V-CP-1 to V-CP-5 (R77). -/
theorem test_cp : runAll (Config.default)
    [(0xB8#8, { zero with a := 0x3C#8, b := 0x2F#8 },
      { zero with a := 0x3C#8, b := 0x2F#8, f := decodeF 0x60#8 }),
     (0xB9#8, { zero with a := 0x3C#8, c := 0x3C#8 },
      { zero with a := 0x3C#8, c := 0x3C#8, f := decodeF 0xC0#8 }),
     (0xBA#8, { zero with a := 0x3C#8, d := 0x40#8 },
      { zero with a := 0x3C#8, d := 0x40#8, f := decodeF 0x50#8 }),
     (0xBF#8, zero,
      { zero with f := decodeF 0xC0#8 }),
     (0xBF#8, { zero with a := 0x99#8 },
      { zero with a := 0x99#8, f := decodeF 0xC0#8 })] = true := by decide

/-- V-SBC-1 to V-SBC-7 (R78). -/
theorem test_sbc : runAll (Config.default)
    [(0x98#8, { zero with a := 0x3B#8, b := 0x2A#8, f := decodeF 0x10#8 },
      { zero with a := 0x10#8, b := 0x2A#8, f := decodeF 0x40#8 }),
     (0x98#8, { zero with a := 0x3B#8, b := 0x2A#8 },
      { zero with a := 0x11#8, b := 0x2A#8, f := decodeF 0x40#8 }),
     (0x99#8, { zero with a := 0x10#8, c := 0x0F#8, f := decodeF 0x10#8 },
      { zero with c := 0x0F#8, f := decodeF 0xE0#8 }),
     (0x9A#8, { zero with d := 0xFF#8, f := decodeF 0x10#8 },
      { zero with d := 0xFF#8, f := decodeF 0xF0#8 }),
     (0x9F#8, { zero with a := 0x42#8, f := decodeF 0x10#8 },
      { zero with a := 0xFF#8, f := decodeF 0x70#8 }),
     (0x9F#8, { zero with a := 0x42#8 },
      { zero with f := decodeF 0xC0#8 }),
     (0x9B#8, { zero with f := decodeF 0x10#8 },
      { zero with a := 0xFF#8, f := decodeF 0x70#8 })] = true := by decide

/-- V-SBC-W-1 to V-SBC-W-3 (R78). -/
theorem test_sbc_wrapped : runAll ({ Config.default with subHRule := .wrappedCompare })
    [(0x99#8, { zero with a := 0x10#8, c := 0x0F#8, f := decodeF 0x10#8 },
      { zero with c := 0x0F#8, f := decodeF 0xC0#8 }),
     (0x9A#8, { zero with d := 0xFF#8, f := decodeF 0x10#8 },
      { zero with d := 0xFF#8, f := decodeF 0xD0#8 }),
     (0x98#8, { zero with a := 0x3B#8, b := 0x2A#8, f := decodeF 0x10#8 },
      { zero with a := 0x10#8, b := 0x2A#8, f := decodeF 0x40#8 })] = true := by decide

/-- V-AND-1 to V-AND-3 (R79). -/
theorem test_and : runAll (Config.default)
    [(0xA0#8, { zero with a := 0x5A#8, b := 0x3F#8 },
      { zero with a := 0x1A#8, b := 0x3F#8 }),
     (0xA1#8, { zero with a := 0xF0#8, c := 0x0F#8, f := decodeF 0x30#8 },
      { zero with c := 0x0F#8, f := decodeF 0x80#8 }),
     (0xA7#8, { zero with a := 0x81#8 },
      { zero with a := 0x81#8 })] = true := by decide

/-- V-AND-T-1 to V-AND-T-2 (R79). -/
theorem test_and_h_true : runAll ({ Config.default with andHValue := true })
    [(0xA0#8, { zero with a := 0x5A#8, b := 0x3F#8 },
      { zero with a := 0x1A#8, b := 0x3F#8, f := decodeF 0x20#8 }),
     (0xA1#8, { zero with a := 0xF0#8, c := 0x0F#8 },
      { zero with c := 0x0F#8, f := decodeF 0xA0#8 })] = true := by decide

/-- V-OR-1 to V-OR-3 (R80). -/
theorem test_or : runAll (Config.default)
    [(0xB0#8, { zero with a := 0x5A#8, b := 0x0F#8 },
      { zero with a := 0x5F#8, b := 0x0F#8 }),
     (0xB7#8, { zero with f := decodeF 0x70#8 },
      { zero with f := decodeF 0x80#8 }),
     (0xB1#8, { zero with a := 0x80#8, c := 0x01#8 },
      { zero with a := 0x81#8, c := 0x01#8 })] = true := by decide

/-- V-XOR-1 to V-XOR-3 (R81). -/
theorem test_xor : runAll (Config.default)
    [(0xA8#8, { zero with a := 0xFF#8, b := 0x0F#8 },
      { zero with a := 0xF0#8, b := 0x0F#8 }),
     (0xAF#8, { zero with a := 0x5C#8, f := decodeF 0x70#8 },
      { zero with f := decodeF 0x80#8 }),
     (0xA9#8, { zero with a := 0xAA#8, c := 0xAA#8 },
      { zero with c := 0xAA#8, f := decodeF 0x80#8 })] = true := by decide

/-- V-INC-1 to V-INC-5 (R82). -/
theorem test_inc : runAll (Config.default)
    [(0x04#8, { zero with b := 0xFF#8, f := decodeF 0x10#8 },
      { zero with f := decodeF 0xB0#8 }),
     (0x04#8, { zero with b := 0xFF#8 },
      { zero with f := decodeF 0xA0#8 }),
     (0x0C#8, { zero with c := 0x0F#8 },
      { zero with c := 0x10#8, f := decodeF 0x20#8 }),
     (0x3C#8, { zero with a := 0x41#8, f := decodeF 0x50#8 },
      { zero with a := 0x42#8, f := decodeF 0x10#8 }),
     (0x2C#8, { zero with h := 0x12#8, l := 0xFF#8 },
      { zero with h := 0x12#8, f := decodeF 0xA0#8 })] = true := by decide

/-- V-DEC-1 to V-DEC-5 (R83). -/
theorem test_dec : runAll (Config.default)
    [(0x0D#8, { zero with c := 0x01#8 },
      { zero with f := decodeF 0xC0#8 }),
     (0x05#8, { zero with f := decodeF 0x10#8 },
      { zero with b := 0xFF#8, f := decodeF 0x70#8 }),
     (0x15#8, { zero with d := 0x10#8 },
      { zero with d := 0x0F#8, f := decodeF 0x60#8 }),
     (0x3D#8, { zero with a := 0x02#8, f := decodeF 0xA0#8 },
      { zero with a := 0x01#8, f := decodeF 0x40#8 }),
     (0x1D#8, { zero with d := 0x05#8 },
      { zero with d := 0x05#8, e := 0xFF#8, f := decodeF 0x60#8 })] = true := by decide

/-- V-UNIMPL-1 to V-UNIMPL-6 (R57, R84): the fault, with the code and the registers as they were. -/
theorem test_unimplemented :
    ([(0x00#8, { zero with a := 0x12#8, f := decodeF 0x90#8 }),
      (0x86#8, { zero with a := 0x12#8, h := 0x80#8 }),
      (0x39#8, { zero with h := 0x12#8, l := 0x34#8 }),
      (0x34#8, zero), (0xCB#8, zero), (0xFF#8, { zero with b := 0x01#8 })].all fun v =>
      faultOf (start .default v.2 [.exec v.1]) == some (.unimplemented v.1 0 v.2)) = true := by decide

/-- The first instruction after reset, placed as the host places it. -/
theorem test_withFetchWord :
    after (State.reset.withFetchWord 8 0x3C) = some ({ zero with a := 0x01#8 }, .ok) := by decide

/-! ### Witnesses: for each statement with hypotheses, operands and a state that meet all of them -/

/-- A block on which A, B and D hold values. -/
def busy : RegFile := { zero with a := 0x8F#8, b := 0x01#8, d := 0x77#8, f := ⟨false, true, false, true⟩ }

/-- AddHlGivesWideSum: a state for each value of `ADDHL_Z_MODE`. -/
theorem witness_addHl_modes :
    (start .default busy []).params.addHlZMode = .fromResult ∧
    (start { Config.default with addHlZMode := .preserve } busy []).params.addHlZMode = .preserve := by
  decide

/-- SbcSubtractsBorrowIn: a state for each value of `SUB_H_RULE`. -/
theorem witness_sbc_rules :
    (start .default busy []).params.subHRule = .directBorrow ∧
    (start { Config.default with subHRule := .wrappedCompare } busy []).params.subHRule =
      .wrappedCompare := by decide

/-- AndIsBitwise, OrIsBitwise, XorIsBitwise: the highest bit number. -/
theorem witness_bit_number : 7 < 8 := by decide

/-- DecodeEncodeAgree, second clause, and StepRunsDecodedInstruction: the first and the last code. -/
theorem witness_decodes : decode 0x04#8 = some .incB ∧ decode 0xBF#8 = some .cpA := by decide

/-- DecodeFReadsTopBits: two bytes that differ in their low nibble only. -/
theorem witness_same_top_bits : (0x5F#8).toNat / 16 = (0x50#8).toNat / 16 := by decide

/-- SubHalfRulesDifferOnlyAtFullNibble: a subtrahend with a full low nibble. -/
theorem witness_full_nibble : (0xFF#8).toNat % 16 = 15 := by decide

/-- ExecIsTotalAndDetermined: a code that decodes, and two states that differ outside block and
parameters. -/
theorem witness_total :
    decode 0x88#8 ≠ none ∧ start .default busy [] ≠ start .default busy [.readF] ∧
    (start .default busy [.readF]).regs = (start .default busy []).regs ∧
    (start .default busy [.readF]).params = (start .default busy []).params := by decide

/-- OnlyDestinationsAreWritten: an instruction that answers a next state. -/
theorem witness_destinations :
    ∃ t, exec .cpB (start .default busy []) = .next t ∧ Statements.destinations Instr.cpB.form = [] :=
  ⟨_, rfl, rfl⟩

/-- ResultDependsOnlyOnSources, with the carry clause: two states that differ in D, and ADC A,B. -/
theorem witness_sources_adc :
    (∀ r ∈ Statements.sources Instr.adcAB.form, busy.get r = { busy with d := 0x00#8 }.get r) ∧
    busy.f.c = { busy with d := 0x00#8 }.f.c ∧ busy ≠ { busy with d := 0x00#8 } ∧
    ¬ Statements.keepsCarry Instr.adcAB.form ∧ (∀ p, Instr.adcAB.form ≠ .addHl p) ∧
    (∃ t, exec .adcAB (start .default busy []) = .next t) ∧
    ∃ t, exec .adcAB (start .default { busy with d := 0x00#8 } []) = .next t := by
  refine ⟨by decide, rfl, by decide, ?_, fun p h => (nomatch h), ⟨_, rfl⟩, ⟨_, rfl⟩⟩
  rintro ⟨r, h | h⟩ <;> exact nomatch h

/-- ResultDependsOnlyOnSources, with the zero clause: ADD HL,BC under `FROM_RESULT`, on states that differ
in A, in D and in every flag that is set. -/
theorem witness_sources_addHl :
    (∀ r ∈ Statements.sources Instr.addHlBc.form, busy.get r = { zero with b := 0x01#8 }.get r) ∧
    ¬ Statements.readsCarry Instr.addHlBc.form ∧ busy.f ≠ zero.f ∧
    (start .default busy []).params.addHlZMode = .fromResult ∧
    (∃ t, exec .addHlBc (start .default busy []) = .next t) ∧
    ∃ t, exec .addHlBc (start .default { zero with b := 0x01#8 } []) = .next t := by
  refine ⟨by decide, ?_, by decide, rfl, ⟨_, rfl⟩, ⟨_, rfl⟩⟩
  rintro ⟨r, h | h⟩ <;> exact nomatch h

/-- CarryFormsWithoutCarryArePlain: a state with the carry clear. -/
theorem witness_no_carry : (start .default zero []).regs.f.c = false := rfl

/-- ReadPairConcatenatesSlots and WritePairFillsBothSlots: a pair of each kind of low slot. -/
theorem witness_slots : Pair.af.low = .flags ∧ Pair.bc.low = .plain .c := by decide

/-- PairReadAfterWrite: a pair that is not AF. -/
theorem witness_plain_pair : Pair.bc ≠ .af := by decide

/-- WritesAreVisibleToTheNextRead, the clauses after WRITE_R8: the written register and another one, a
pair that holds it in either slot, AF, and F. -/
theorem witness_read_after_writeR8 :
    ([(.readR8 .d), (.readR8 .e), (.readPair .de), (.readPair .af), .readF].all fun y =>
      (start .default busy [.writeR8 .e 0xFF#8, y]).queue == .writeR8 .e 0xFF#8 :: y :: []) = true ∧
    Pair.de.low = .plain .e ∧ Pair.af.low = .flags := by decide

/-- WritesAreVisibleToTheNextRead, the clauses after WRITE_PAIR: the two slots, another register, the pair
itself and another one, and F, for a plain pair and for AF. -/
theorem witness_read_after_writePair :
    ([(.readR8 .a), (.readR8 .h), (.readR8 .l), (.readPair .hl), (.readPair .af), .readF].all fun y =>
      [Pair.hl, .af].all fun p =>
        (start .default busy [.writePair p 0xFFFF#16, y]).queue == .writePair p 0xFFFF#16 :: y :: []) =
      true := by decide

/-- WritesAreVisibleToTheNextRead, the clauses after WRITE_F: F, AF, a plain pair and a register. -/
theorem witness_read_after_writeF :
    ([.readF, (.readPair .af), (.readPair .bc), (.readR8 .a)].all fun y =>
      (start .default busy [.writeF 0xFF#8, y]).queue == .writeF 0xFF#8 :: y :: []) = true ∧
    Pair.bc.low = .plain .c := by decide

/-- NextTransactionSeesTheOneBefore: an EXEC that completes with each kind of transaction after it. -/
theorem witness_sees_the_one_before :
    ∀ y ∈ [.readR8 .a, .readF, .readPair .af, .exec 0x88#8],
      (start .default busy [.exec 0x80#8, y]).queue = .exec 0x80#8 :: y :: [] ∧
      (∃ u, perform (.exec 0x80#8) (start .default busy [y]) = .next u) ∧
      decode 0x88#8 = some .adcAB := by
  intro y _
  obtain ⟨f, -, h⟩ := performExec_some (show decode 0x80#8 = some .addAB by decide) (start .default busy [y])
  exact ⟨rfl, ⟨_, h⟩, by decide⟩

/-- CarryChainsFromExecToExec: ADD A,B then ADC A,A, and SUB B then SBC A,D, pending. -/
theorem witness_carry_chain :
    (start .default busy [.exec 0x80#8, .exec 0x8F#8]).queue = .exec 0x80#8 :: .exec 0x8F#8 :: [] ∧
    decode 0x80#8 = some (Instr.ofForm (.op8 .add .b)) ∧
    decode 0x8F#8 = some (Instr.ofForm (.op8 .adc .a)) ∧
    (start .default busy [.exec 0x90#8, .exec 0x9A#8]).queue = .exec 0x90#8 :: .exec 0x9A#8 :: [] ∧
    decode 0x90#8 = some (Instr.ofForm (.op8 .sub .b)) ∧
    decode 0x9A#8 = some (Instr.ofForm (.op8 .sbc .d)) := by decide

/-- StepRunsDecodedInstruction: a pending code that decodes. -/
theorem witness_step_runs :
    (start .default busy [.exec 0x80#8]).queue = .exec 0x80#8 :: [] ∧ decode 0x80#8 = some .addAB := by
  decide

/-- UnimplementedCodeFaultsUnchanged: a pending code that does not decode. -/
theorem witness_unimplemented :
    (start .default busy [.exec 0x86#8]).queue = .exec 0x86#8 :: [] ∧ decode 0x86#8 = none := by decide

/-- OnlyUnimplementedCodesFault: a transaction that is no EXEC, and an EXEC without a next state. -/
theorem witness_no_next :
    (∀ code, Transaction.readF ≠ .exec code) ∧
    ∀ t, perform (.exec 0x86#8) (start .default busy []) ≠ .next t := by
  refine ⟨fun _ h => (nomatch h), fun t h => ?_⟩
  rw [perform, performExec_none (by decide)] at h
  exact nomatch h

/-- StepStopsOnlyAsUnimplemented: a step that faults. -/
theorem witness_faults :
    step (start .default busy [.exec 0x86#8]) = .fault (.unimplemented 0x86#8 0 busy) := rfl

/-- StepPerformsTheNextTransaction: a stream that is not empty. -/
theorem witness_next_transaction : (start .default busy [.reset, .readF]).queue = .reset :: [.readF] := rfl

/-- IdleKeepsTheState: a block with nothing issued. -/
theorem witness_finished : (start .default busy []).Finished := rfl

/-- StepTakesOneTransaction and StreamPlaceIsInvariant: a step from a state in its place. -/
theorem witness_place :
    (start .default busy [.readF, .exec 0x80#8]).AtStream Config.default 1 ∧
    ∃ t, step (start .default busy [.readF, .exec 0x80#8]) = .next t := ⟨⟨rfl, rfl⟩, ⟨_, rfl⟩⟩

/-- SafeStreamNeverStops: a safe stream that is not empty. -/
theorem witness_safe_stream : (start .default busy [.readF, .exec 0x80#8]).StreamSafe := by
  simp [State.StreamSafe, start, Transaction.safe]
  decide

/-- RunOfInScopeCodesEnds: a stream of two codes and something after it. -/
theorem witness_run :
    (∀ c ∈ [0x3C#8, 0x09#8], decode c ≠ none) ∧
    (start .default busy [.exec 0x3C#8, .exec 0x09#8, .readF]).queue =
      [0x3C#8, 0x09#8].map .exec ++ [.readF] := by decide

/-- RunStopsAtFirstUnimplemented: the program P4 of 95_test_vectors.md. -/
theorem witness_run_stops :
    (∀ c ∈ [0x3C#8], decode c ≠ none) ∧ decode 0x00#8 = none ∧
    (start .default busy [.exec 0x3C#8, .exec 0x00#8, .exec 0x3C#8]).queue =
      [0x3C#8].map .exec ++ .exec 0x00#8 :: [.exec 0x3C#8] := by decide

end Sys2Proof.Tests
end

section
/-! PROOFS, family 10_state.md: the flags codec (R20 to R22) and the reset values (R38). -/

namespace Sys2Proof.Machine

/-! ### The flags codec, bit by bit -/

/-- A bit of a byte, as arithmetic on the byte's number. -/
theorem getLsbD_iff_div_mod (b : Byte) (i : Nat) : b.getLsbD i = true ↔ b.toNat / 2 ^ i % 2 = 1 := by
  rw [← BitVec.testBit_toNat, Nat.testBit_eq_decide_div_mod_eq, decide_eq_true_iff]

theorem decodeF_z_iff (b : Byte) : (decodeF b).z = true ↔ b.toNat / 128 % 2 = 1 :=
  getLsbD_iff_div_mod b 7

theorem decodeF_n_iff (b : Byte) : (decodeF b).n = true ↔ b.toNat / 64 % 2 = 1 :=
  getLsbD_iff_div_mod b 6

theorem decodeF_h_iff (b : Byte) : (decodeF b).h = true ↔ b.toNat / 32 % 2 = 1 :=
  getLsbD_iff_div_mod b 5

theorem decodeF_c_iff (b : Byte) : (decodeF b).c = true ↔ b.toNat / 16 % 2 = 1 :=
  getLsbD_iff_div_mod b 4

/-- The bits above the low nibble are the bits of the byte's number divided by 16. -/
theorem getLsbD_add_four (b : Byte) (i : Nat) : b.getLsbD (i + 4) = (b.toNat / 16).testBit i := by
  rw [← BitVec.testBit_toNat]
  exact (Nat.testBit_div_two_pow b.toNat i).symm

/-- The low nibble of a byte does not matter to the decoder (R21). -/
theorem decodeF_eq_of_top_nibble_eq {b b' : Byte} (h : b'.toNat / 16 = b.toNat / 16) :
    decodeF b' = decodeF b := by
  have hbit (i : Nat) : b'.getLsbD (i + 4) = b.getLsbD (i + 4) := by
    rw [getLsbD_add_four, getLsbD_add_four, h]
  rw [decodeF, decodeF, Flags.mk.injEq]
  exact ⟨hbit 3, hbit 2, hbit 1, hbit 0⟩

theorem flagBit_toNat (b : Bool) : (flagBit b).toNat = if b = true then 1 else 0 := by
  cases b <;> rfl

theorem flagBit_getLsbD_zero (b : Bool) : (flagBit b).getLsbD 0 = b := by
  cases b <;> rfl

/-- A concatenation as a number: the upper part is shifted by the width of the lower one. -/
theorem append_toNat {m n : Nat} (x : BitVec m) (y : BitVec n) :
    (x ++ y).toNat = x.toNat * 2 ^ n + y.toNat := by
  rw [BitVec.toNat_append, ← Nat.shiftLeft_add_eq_or_of_lt y.isLt, Nat.shiftLeft_eq]

/-- The packed byte as a number: z, n, h, c weigh 128, 64, 32 and 16 (R20). -/
theorem encodeF_toNat (f : Flags) :
    (encodeF f).toNat = (flagBit f.z).toNat * 128 + (flagBit f.n).toNat * 64 +
      (flagBit f.h).toNat * 32 + (flagBit f.c).toNat * 16 := by
  simp only [encodeF, append_toNat, BitVec.toNat_ofNat]
  omega

/-- Bits 3 to 0 of the packed byte are clear (R19). -/
theorem encodeF_getLsbD_of_lt_four (f : Flags) {i : Nat} (h : i < 4) : (encodeF f).getLsbD i = false := by
  simp only [encodeF, BitVec.getLsbD_append, h, if_true, BitVec.getLsbD_zero]

/-- Bits 7 to 4 of the packed byte are the flags (R22). -/
@[simp] theorem decodeF_encodeF (f : Flags) : decodeF (encodeF f) = f := by
  obtain ⟨z, n, h, c⟩ := f
  simp only [decodeF, encodeF, BitVec.getLsbD_append, Flags.mk.injEq]
  exact ⟨flagBit_getLsbD_zero z, flagBit_getLsbD_zero n, flagBit_getLsbD_zero h, flagBit_getLsbD_zero c⟩

/-- Bits 3 to 0 are cleared on both sides, and bits 7 to 4 are what the decoder reads again (R22). -/
theorem encodeF_decodeF (b : Byte) : encodeF (decodeF b) = b &&& 0xF0#8 := by
  refine BitVec.eq_of_getLsbD_eq fun i hi => ?_
  rw [BitVec.getLsbD_and]
  by_cases hlow : i < 4
  · have hmask : ∀ j < 4, (0xF0#8).getLsbD j = false := by decide
    rw [encodeF_getLsbD_of_lt_four _ hlow, hmask i hlow, Bool.and_false]
  · have hmask : ∀ j < 8, ¬ j < 4 → (0xF0#8).getLsbD j = true := by decide
    rw [hmask i hi hlow, Bool.and_true]
    have hround := decodeF_encodeF (decodeF b)
    have htop : i = 4 ∨ i = 5 ∨ i = 6 ∨ i = 7 := by omega
    rcases htop with rfl | rfl | rfl | rfl
    · exact congrArg Flags.c hround
    · exact congrArg Flags.h hround
    · exact congrArg Flags.n hround
    · exact congrArg Flags.z hround

/-! ### The reset values -/

@[simp] theorem RegFile.reset_get (r : R8) : RegFile.reset.get r = 0x00#8 := by cases r <;> rfl

@[simp] theorem encodeF_reset : encodeF RegFile.reset.f = 0x00#8 := rfl

theorem RegFile.reset_getLow (lo : LowSlot) : RegFile.reset.getLow lo = 0x00#8 := by
  cases lo with
  | plain r => exact reset_get r
  | flags => exact encodeF_reset

theorem RegFile.reset_getPair (p : Pair) : RegFile.reset.getPair p = 0x0000#16 := by
  rw [RegFile.getPair, reset_get, reset_getLow]
  rfl

end Sys2Proof.Machine

namespace Sys2Proof.Proofs

open Sys2Proof Sys2Proof.Machine

/-- Settles O25: the concatenation of the flag bits as a binary number. -/
theorem encodeFWeighsFlags : Obligations.EncodeFWeighsFlags := by
  intro f
  simp only [encodeF_toNat, flagBit_toNat, ite_mul, one_mul, zero_mul]

/-- Settles O26: each flag is a digit of the byte above its low nibble. -/
theorem decodeFReadsTopBits : Obligations.DecodeFReadsTopBits := fun b =>
  ⟨decodeF_z_iff b, decodeF_n_iff b, decodeF_h_iff b, decodeF_c_iff b,
    fun _ h => decodeF_eq_of_top_nibble_eq h⟩

/-- Settles O27, bit by bit in both directions. -/
theorem flagsCodecRoundTrip : Obligations.FlagsCodecRoundTrip :=
  ⟨decodeF_encodeF, encodeF_decodeF⟩

/-- Settles O38: the registers, the packed flags and so both slots of every pair are zero. -/
theorem resetValuesAreZero : Obligations.ResetValuesAreZero :=
  ⟨RegFile.reset_get, rfl, rfl, rfl, rfl, encodeF_reset, RegFile.reset_getPair⟩

end Sys2Proof.Proofs
end

section
/-! PROOFS, family 40_executor.md: EXEC is total on the opcode map and determined by registers, code and
parameters (R72). -/

namespace Sys2Proof.Machine

/-- EXEC of a decoding code ends with the register file its meaning writes, and returns OK (R61). -/
theorem perform_exec_of_exec_next {code : Byte} {i : Instr} {s : State} {f : RegFile}
    (hd : decode code = some i) (hf : exec i s = .next { s with regs := f }) :
    perform (.exec code) s = .next (returnOk { s with regs := f }) := by
  simp only [perform, performExec, hd, hf, finishExec]

end Sys2Proof.Machine

namespace Sys2Proof.Proofs

open Sys2Proof Sys2Proof.Machine

/-- Settles O17: the meaning of the decoded instruction reads the register file and the parameters alone,
and EXEC adds only the status and the moved stream position. -/
theorem execIsTotalAndDetermined : Obligations.ExecIsTotalAndDetermined := by
  intro code s hdecodes
  obtain ⟨i, hd⟩ := Option.ne_none_iff_exists'.mp hdecodes
  obtain ⟨f, hf⟩ := exec_writes_regs_only i s
  refine ⟨_, perform_exec_of_exec_next hd hf, rfl, fun s' hregs hparams => ?_⟩
  obtain ⟨g, hg, hg'⟩ := exec_reads_regs_and_params i hregs hparams
  have hsame : g = f := congrArg State.regs (Host.Outcome.next.inj (hg.symm.trans hf))
  exact ⟨_, perform_exec_of_exec_next hd hg', rfl, hsame⟩

end Sys2Proof.Proofs
end

section
/-! PROOFS, family 60_exceptions.md: the unimplemented code is the only exceptional condition (R85). -/

namespace Sys2Proof.Machine

theorem Transaction.isExec_eq_false_of_ne_exec {x : Transaction} (h : ∀ code, x ≠ .exec code) :
    x.isExec = false := by
  cases x with
  | exec code => exact absurd rfl (h code)
  | _ => rfl

end Sys2Proof.Machine

namespace Sys2Proof.Proofs

open Sys2Proof Sys2Proof.Machine

/-- Settles O41: an instruction only writes the register file, a transaction other than EXEC writes it and
the reply, and EXEC of a decoding code ends as its instruction does. -/
theorem onlyUnimplementedCodesFault : Obligations.OnlyUnimplementedCodesFault := by
  refine ⟨fun i s => ?_, fun x s hx => ?_, fun code s hstop => ?_⟩
  · obtain ⟨f, hf⟩ := exec_writes_regs_only i s
    exact ⟨_, hf⟩
  · obtain ⟨f, r, h⟩ := perform_host x (Transaction.isExec_eq_false_of_ne_exec hx) s
    exact ⟨_, h⟩
  · cases hd : decode code with
    | none => rfl
    | some i =>
      obtain ⟨f, _, h⟩ := performExec_some hd s
      exact absurd h (hstop _)

end Sys2Proof.Proofs
end

section
/-! PROOFS, family 30_encoding.md: encoder, decoder, opcode map and format checks agree (R50 to R60). -/

namespace Sys2Proof

open Sys2Proof.Machine

/-! ### The selector fields -/

/-- A slice of a byte as arithmetic on the byte's number. -/
theorem bits_eq_div_mod (v : Byte) (hi lo : Nat) :
    bits v hi lo = v.toNat / 2 ^ lo % 2 ^ (hi - lo + 1) := by
  rw [bits, BitVec.extractLsb_toNat, Nat.shiftRight_eq_div_pow]

theorem regField_of_regOfField {n : Nat} {r : R8} (h : regOfField n = some r) : (regField r).toNat = n := by
  unfold regOfField at h
  split at h <;> cases h <;> rfl

theorem opField_opOfField {n : Nat} (h : n < 8) : (opField (opOfField n)).toNat = n := by
  interval_cases n <;> rfl

theorem pairField_of_pairOfField {n : Nat} {p : P16} (h : pairOfField n = some p) :
    (pairField p).toNat = n := by
  unfold pairOfField at h
  split at h <;> cases h <;> rfl

/-! ### Decoder and encoder are inverse -/

theorem decodeForm_encodeForm (f : Form) : decodeForm (encodeForm f) = some f := by
  cases f with
  | op8 k r => cases k <;> cases r <;> rfl
  | inc r => cases r <;> rfl
  | dec r => cases r <;> rfl
  | addHl p => cases p <;> rfl

theorem encodeForm_op8_toNat (k : AluOp) (r : R8) :
    (encodeForm (.op8 k r)).toNat = 128 + (opField k).toNat * 8 + (regField r).toNat := by
  simp only [encodeForm, append_toNat, BitVec.toNat_ofNat]
  omega

theorem encodeForm_inc_toNat (r : R8) : (encodeForm (.inc r)).toNat = (regField r).toNat * 8 + 4 := by
  simp only [encodeForm, append_toNat, BitVec.toNat_ofNat]
  omega

theorem encodeForm_dec_toNat (r : R8) : (encodeForm (.dec r)).toNat = (regField r).toNat * 8 + 5 := by
  simp only [encodeForm, append_toNat, BitVec.toNat_ofNat]
  omega

theorem encodeForm_addHl_toNat (p : P16) :
    (encodeForm (.addHl p)).toNat = (pairField p).toNat * 16 + 9 := by
  simp only [encodeForm, append_toNat, BitVec.toNat_ofNat]
  omega

/-- Each format of R50 determines all eight bits of the code: the fixed ones, and those of its fields. -/
theorem encodeForm_of_decodeForm {code : Byte} {f : Form} (h : decodeForm code = some f) :
    encodeForm f = code := by
  have hlt := code.isLt
  apply BitVec.eq_of_toNat_eq
  unfold decodeForm at h
  simp only [bits_eq_div_mod] at h
  split at h
  case isTrue =>
    obtain ⟨r, hr, rfl⟩ := Option.map_eq_some_iff.mp h
    have hreg := regField_of_regOfField hr
    have hop := opField_opOfField (n := code.toNat / 2 ^ 3 % 2 ^ (5 - 3 + 1)) (by omega)
    rw [encodeForm_op8_toNat, hop, hreg]
    omega
  case isFalse =>
    split at h
    case isTrue hfmt =>
      obtain ⟨r, hr, hf⟩ := Option.map_eq_some_iff.mp h
      have hreg := regField_of_regOfField hr
      split at hf <;> subst hf
      · rw [encodeForm_inc_toNat, hreg]
        omega
      · rw [encodeForm_dec_toNat, hreg]
        omega
    case isFalse =>
      split at h
      case isTrue hfmt =>
        obtain ⟨p, hp, rfl⟩ := Option.map_eq_some_iff.mp h
        rw [encodeForm_addHl_toNat, pairField_of_pairOfField hp]
        omega
      case isFalse => cases h

@[simp] theorem decode_encode (i : Instr) : decode (encode i) = some i := by
  rw [decode, encode, decodeForm_encodeForm, Option.map_some, Instr.ofForm_form]

theorem encode_of_decode {code : Byte} {i : Instr} (h : decode code = some i) : encode i = code := by
  obtain ⟨f, hf, rfl⟩ := Option.map_eq_some_iff.mp h
  rw [encode, Instr.form_ofForm, encodeForm_of_decodeForm hf]

/-- Every instruction has exactly one code (R60). -/
theorem decode_eq_some_iff {code : Byte} {i : Instr} : decode code = some i ↔ code = encode i := by
  constructor
  · exact fun h => (encode_of_decode h).symm
  · rintro rfl
    exact decode_encode i

/-- The host's word of a code is that code. -/
@[simp] theorem tableCode_toNat (code : Byte) : tableCode 8 code.toNat = code := by
  rw [tableCode, Nat.mod_eq_of_lt code.isLt, BitVec.ofNat_toNat, BitVec.setWidth_eq]

/-! ### The opcode map -/

theorem encode_mem_opcodeMap (i : Instr) : (encode i, i) ∈ opcodeMap := by
  cases i <;> decide

theorem eq_encode_of_mem_opcodeMap {code : Byte} {i : Instr} (h : (code, i) ∈ opcodeMap) :
    code = encode i := by
  have hall : ∀ e ∈ opcodeMap, e.1 = encode e.2 := by decide
  exact hall _ h

/-- The numbers of the codes the opcode map lists. -/
def opcodeNumbers : List Nat := opcodeMap.map fun e => e.1.toNat

theorem opcodeNumbers_nodup : opcodeNumbers.Nodup := by decide

/-- The opcode map lists exactly the codes that decode. -/
theorem mem_opcodeNumbers_iff {n : Nat} :
    n ∈ opcodeNumbers ↔ n < 256 ∧ (decode (BitVec.ofNat 8 n)).isSome = true := by
  constructor
  · intro h
    obtain ⟨⟨code, i⟩, hmem, rfl⟩ := List.mem_map.mp h
    have hcode := eq_encode_of_mem_opcodeMap hmem
    refine ⟨code.isLt, ?_⟩
    rw [BitVec.ofNat_toNat, BitVec.setWidth_eq, hcode, decode_encode, Option.isSome_some]
  · rintro ⟨hlt, hsome⟩
    obtain ⟨i, hi⟩ := Option.isSome_iff_exists.mp hsome
    refine List.mem_map.mpr ⟨_, encode_mem_opcodeMap i, ?_⟩
    rw [encode_of_decode hi, BitVec.toNat_ofNat, Nat.mod_eq_of_lt hlt]

/-- The codes that decode are those of the opcode map, each once. -/
theorem filter_decode_perm_opcodeNumbers :
    ((List.range 256).filter fun n => (decode (BitVec.ofNat 8 n)).isSome).Perm opcodeNumbers := by
  refine (List.perm_ext_iff_of_nodup (List.nodup_range.filter _) opcodeNumbers_nodup).mpr fun n => ?_
  rw [List.mem_filter, List.mem_range, mem_opcodeNumbers_iff]

theorem countP_decode_isSome :
    ((List.range 256).countP fun n => (decode (BitVec.ofNat 8 n)).isSome) = 73 := by
  rw [List.countP_eq_length_filter, filter_decode_perm_opcodeNumbers.length_eq]
  rfl

end Sys2Proof

namespace Sys2Proof.Proofs

open Sys2Proof

/-- Settles O3: the encoder's formats are read back field by field, and no bit of a code is left open. -/
theorem decodeEncodeAgree : Obligations.DecodeEncodeAgree := by
  refine ⟨fun i => ⟨decode_encode i, ?_⟩, fun code i h => encode_of_decode h⟩
  rw [decodeTableWord, tableCode_toNat, decode_encode]

/-- Settles O2: both accounts pair each instruction with its one code. -/
theorem decodeAgreesWithOpcodeMap : Obligations.DecodeAgreesWithOpcodeMap := by
  intro code i
  rw [decode_eq_some_iff]
  constructor
  · rintro rfl
    exact encode_mem_opcodeMap i
  · exact eq_encode_of_mem_opcodeMap

/-- Settles O1: sixteen codes, each decoded. -/
theorem sampleCodesDecode : Obligations.SampleCodesDecode := by
  unfold Obligations.SampleCodesDecode
  decide

/-- Settles O4, over the 256 bytes. -/
theorem unimplementedExactlyOutsideFormats : Obligations.UnimplementedExactlyOutsideFormats := by
  unfold Obligations.UnimplementedExactlyOutsideFormats
  decide

/-- Settles O5: the codes that do not decode are the rest of the 256. -/
theorem seventyThreeCodesDecode : Obligations.SeventyThreeCodesDecode := by
  refine ⟨countP_decode_isSome, ?_⟩
  have hsplit := List.length_eq_countP_add_countP (l := List.range 256)
    (fun n => (decode (BitVec.ofNat 8 n)).isSome)
  rw [countP_decode_isSome, List.length_range] at hsplit
  simp only [Bool.not_eq_true, Option.isSome_eq_false_iff, Bool.decide_eq_true] at hsplit
  omega

end Sys2Proof.Proofs
end

section
/-! PROOFS, families 41_add.md to 44_incdec.md: what each instruction leaves (R73 to R83). -/

namespace Sys2Proof.Machine

open Sys2Proof.Statements

/-! ### The writebacks complete, with their frame -/

theorem writeback8_completes (r : R8) (res : Byte) (fl : Flags) (s : State) :
    ∃ t, writeback8 r res fl s = .next t ∧ t.regs.get r = res ∧ t.regs.f = fl ∧
      RegsSameBut [r] s t ∧ SameOutside s t := by
  obtain ⟨hres, hfl, hframe, hout⟩ := writeback8_next (r := r) (res := res) (fl := fl) (s := s) rfl
  exact ⟨_, rfl, hres, hfl, fun q hq => hframe q (List.ne_of_not_mem_cons hq), hout⟩

theorem writebackFlags_completes (fl : Flags) (s : State) :
    ∃ t, writebackFlags fl s = .next t ∧ t.regs.f = fl ∧ RegsSameBut [] s t ∧ SameOutside s t := by
  obtain ⟨hfl, hframe, hout⟩ := writebackFlags_next (fl := fl) (s := s) rfl
  exact ⟨_, rfl, hfl, fun q _ => hframe q, hout⟩

theorem high_mul_add_low (v : PairWord) :
    (v.extractLsb 15 8).toNat * 256 + (v.extractLsb 7 0).toNat = v.toNat := by
  rw [high_toNat, low_toNat]
  omega

theorem writebackHl_completes (res : PairWord) (fl : Flags) (s : State) :
    ∃ t, writebackHl res fl s = .next t ∧ num t .h * 256 + num t .l = res.toNat ∧ t.regs.f = fl ∧
      RegsSameBut [.h, .l] s t ∧ SameOutside s t := by
  obtain ⟨hh, hl, hfl, hframe, hout⟩ := writebackHl_next (res := res) (fl := fl) (s := s) rfl
  refine ⟨_, rfl, ?_, hfl, fun q hq => ?_, hout⟩
  · rw [num, num, hh, hl, high_mul_add_low]
  · obtain ⟨hqh, hql⟩ := List.ne_and_not_mem_of_not_mem_cons hq
    exact hframe q hqh (List.ne_of_not_mem_cons hql)

/-! ### Sums -/

/-- ADD and ADC: the sum with a carry-in, and its flags. -/
theorem addition_completes (r : R8) (cin : Nat) (s : State) :
    ∃ t, writeback8 .a (sum8 (s.regs.get .a) (s.regs.get r) cin)
        (addFlags (s.regs.get .a) (s.regs.get r) cin (sum8 (s.regs.get .a) (s.regs.get r) cin)) s = .next t ∧
      num t .a = (num s .a + num s r + cin) % 256 ∧
      (t.regs.f.z = true ↔ (num s .a + num s r + cin) % 256 = 0) ∧
      t.regs.f.n = false ∧
      (t.regs.f.h = true ↔ num s .a % 16 + num s r % 16 + cin > 15) ∧
      (t.regs.f.c = true ↔ num s .a + num s r + cin ≥ 256) ∧
      RegsSameBut [.a] s t ∧ SameOutside s t := by
  obtain ⟨t, ht, hres, hfl, hframe, hout⟩ := writeback8_completes .a _ _ s
  refine ⟨t, ht, ?_, ?_, ?_, ?_, ?_, hframe, hout⟩
  · rw [num, hres, sum8_toNat, num, num]
  · rw [hfl, addFlags, zero8_iff, sum8_toNat, num, num]
  · rw [hfl, addFlags]
  · rw [hfl, addFlags, hcAdd8_iff, num, num]
  · rw [hfl, addFlags, cAdd8_iff, num, num]

theorem muxPair_toNat (p : P16) (s : State) : (muxPair p s).toNat = pairNum s p := by
  cases p <;> exact RegFile.getPair_toNat _ _

theorem muxHl_toNat (s : State) : (muxHl s).toNat = pairNum s .hl := RegFile.getPair_toNat _ _

/-! ### Differences -/

/-- Without a borrow-in both readings of `SUB_H_RULE` compare the operands' low nibbles (R69). -/
theorem hbSub8_no_borrow_iff (rule : SubHRule) (a b : Byte) :
    hbSub8 rule a b 0 (diff8 a b 0) = true ↔ a.toNat % 16 < b.toNat % 16 := by
  have ha := a.isLt
  have hb := b.isLt
  cases rule with
  | directBorrow =>
    rw [hbSub8_direct_iff]
    omega
  | wrappedCompare =>
    rw [hbSub8_wrapped_iff, diff8_toNat a b 0 (by omega)]
    omega

theorem diff8_toNat_eq_zero_iff (a b : Byte) : (diff8 a b 0).toNat = 0 ↔ a.toNat = b.toNat := by
  have ha := a.isLt
  have hb := b.isLt
  rw [diff8_toNat a b 0 (by omega)]
  omega

/-- The flags of SUB and CP: those of the comparison, whatever `SUB_H_RULE` (R76, R77). -/
theorem subFlags_no_borrow (rule : SubHRule) (a b : Byte) :
    ((subFlags rule a b 0 (diff8 a b 0)).z = true ↔ a.toNat = b.toNat) ∧
    (subFlags rule a b 0 (diff8 a b 0)).n = true ∧
    ((subFlags rule a b 0 (diff8 a b 0)).h = true ↔ a.toNat % 16 < b.toNat % 16) ∧
    ((subFlags rule a b 0 (diff8 a b 0)).c = true ↔ a.toNat < b.toNat) :=
  ⟨(zero8_iff _).trans (diff8_toNat_eq_zero_iff a b), rfl, hbSub8_no_borrow_iff rule a b,
    cSub8_iff a b 0⟩

/-- With a borrow-in the two readings part at a full low nibble of the subtrahend (R69). -/
theorem hbSub8_wrapped_borrow_iff (a b : Byte) :
    hbSub8 .wrappedCompare a b 1 (diff8 a b 1) = true ↔
      a.toNat % 16 < b.toNat % 16 + 1 ∧ b.toNat % 16 ≠ 15 := by
  have ha := a.isLt
  have hb := b.isLt
  rw [hbSub8_wrapped_iff, diff8_toNat a b 1 (by omega)]
  omega

/-- An operand compared with itself: Z and N, under either `SUB_H_RULE`. -/
theorem subFlags_self (rule : SubHRule) (a : Byte) :
    subFlags rule a a 0 (diff8 a a 0) = ⟨true, true, false, false⟩ := by
  obtain ⟨hz, hn, hh, hc⟩ := subFlags_no_borrow rule a a
  rw [subFlags, Flags.mk.injEq]
  refine ⟨hz.mpr rfl, hn, ?_, ?_⟩
  · exact Bool.eq_false_iff.mpr fun h => absurd (hh.mp h) (lt_irrefl _)
  · exact Bool.eq_false_iff.mpr fun h => absurd (hc.mp h) (lt_irrefl _)

theorem diff8_self (a : Byte) : diff8 a a 0 = 0x00#8 := by
  apply BitVec.eq_of_toNat_eq
  exact (diff8_toNat_eq_zero_iff a a).mpr rfl

/-! ### Logic, INC and DEC -/

/-- AND, OR and XOR: the result in A, Z from it, H as given, N and C clear. -/
theorem logic_completes (h : Bool) (res : Byte) (s : State) :
    ∃ t, writeback8 .a res (logicFlags h res) s = .next t ∧ t.regs.get .a = res ∧
      (t.regs.f.z = true ↔ num t .a = 0) ∧
      t.regs.f.n = false ∧ t.regs.f.h = h ∧ t.regs.f.c = false ∧
      RegsSameBut [.a] s t ∧ SameOutside s t := by
  obtain ⟨t, ht, hres, hfl, hframe, hout⟩ := writeback8_completes .a res (logicFlags h res) s
  refine ⟨t, ht, hres, ?_, ?_, ?_, ?_, hframe, hout⟩
  · rw [hfl, logicFlags, zero8_iff, num, hres]
  · rw [hfl, logicFlags]
  · rw [hfl, logicFlags]
  · rw [hfl, logicFlags]

end Sys2Proof.Machine

namespace Sys2Proof.Proofs

open Sys2Proof Sys2Proof.Machine Sys2Proof.Statements

/-- Settles O6: the sum without a carry-in. -/
theorem addGivesSumAndFlags : Obligations.AddGivesSumAndFlags := by
  intro r s
  rw [exec_ofForm]
  exact addition_completes r 0 s

/-- Settles O7: the sum with the C flag as carry-in. -/
theorem adcAddsCarryIn : Obligations.AdcAddsCarryIn := by
  intro r s
  rw [exec_ofForm]
  exact addition_completes r (carryNum s) s

/-- Settles O8: the operands' numbers are the pairs', and Z splits on `ADDHL_Z_MODE`. -/
theorem addHlGivesWideSum : Obligations.AddHlGivesWideSum := by
  intro p s
  rw [exec_ofForm, ← muxHl_toNat, ← muxPair_toNat]
  obtain ⟨t, ht, hres, hfl, hframe, hout⟩ := writebackHl_completes (sum16 (muxHl s) (muxPair p s))
    (addHlFlags s.params.addHlZMode (muxHl s) (muxPair p s) (sum16 (muxHl s) (muxPair p s)) s.regs.f) s
  refine ⟨t, ht, ?_, fun hmode => ?_, fun hmode => ?_, ?_, ?_, ?_, hframe, hout⟩
  · rw [hres, sum16_toNat]
  · rw [hfl, hmode, ← sum16_toNat]
    exact zero16_iff _
  · rw [hfl, hmode]
    rfl
  · rw [hfl]
    rfl
  · rw [hfl]
    exact hcAdd16_iff _ _
  · rw [hfl]
    exact cAdd16_iff _ _

/-- Settles O9: the difference without a borrow-in, with the flags of the comparison. -/
theorem subGivesDifferenceAndFlags : Obligations.SubGivesDifferenceAndFlags := by
  intro r s
  rw [exec_ofForm]
  obtain ⟨t, ht, hres, hfl, hframe, hout⟩ := writeback8_completes .a
    (diff8 (s.regs.get .a) (s.regs.get r) 0) (subFlags s.params.subHRule _ _ 0 _) s
  obtain ⟨hz, hn, hh, hc⟩ := subFlags_no_borrow s.params.subHRule (s.regs.get .a) (s.regs.get r)
  refine ⟨t, ht, ?_, ?_⟩
  · rw [num, hres, diff8_toNat _ _ 0 (by omega), num, num, Nat.add_zero]
  · rw [hfl]
    exact ⟨hz, hn, hh, hc, hframe, hout⟩

/-- Settles O10: the flags of the comparison alone are written back. -/
theorem cpWritesFlagsOnly : Obligations.CpWritesFlagsOnly := by
  intro r s
  rw [exec_ofForm]
  obtain ⟨t, ht, hfl, hframe, hout⟩ := writebackFlags_completes
    (subFlags s.params.subHRule (s.regs.get .a) (s.regs.get r) 0 (diff8 _ _ 0)) s
  obtain ⟨hz, hn, hh, hc⟩ := subFlags_no_borrow s.params.subHRule (s.regs.get .a) (s.regs.get r)
  refine ⟨t, ht, ?_⟩
  rw [hfl]
  exact ⟨hz, hn, hh, hc, hframe, hout⟩

/-- Settles O11: the difference with the C flag as borrow-in; H splits on `SUB_H_RULE`. -/
theorem sbcSubtractsBorrowIn : Obligations.SbcSubtractsBorrowIn := by
  intro r s
  rw [exec_ofForm]
  have hdiff := diff8_toNat (s.regs.get .a) (s.regs.get r) (carryNum s) (bit_le_one _)
  obtain ⟨t, ht, hres, hfl, hframe, hout⟩ := writeback8_completes .a
    (diff8 (s.regs.get .a) (s.regs.get r) (carryNum s))
    (subFlags s.params.subHRule (s.regs.get .a) (s.regs.get r) (carryNum s)
      (diff8 (s.regs.get .a) (s.regs.get r) (carryNum s))) s
  refine ⟨t, ht, ?_, ?_, ?_, fun hrule => ?_, fun hrule => ?_, ?_, hframe, hout⟩
  · rw [num, hres, hdiff, num, num]
  · rw [hfl, subFlags, zero8_iff, hdiff, num, num]
  · rw [hfl, subFlags]
  · rw [hfl, subFlags, hrule, hbSub8_direct_iff, num, num]
  · rw [hfl, subFlags, hrule, hbSub8_wrapped_iff, hdiff, num, num,
      Nat.mod_mod_of_dvd _ (by decide)]
  · rw [hfl, subFlags, cSub8_iff, num, num]

/-- Settles O12: bit by bit, with `AND_H_VALUE`. -/
theorem andIsBitwise : Obligations.AndIsBitwise := by
  intro r s
  rw [exec_ofForm]
  obtain ⟨t, ht, hres, hrest⟩ := logic_completes s.params.andHValue (s.regs.get .a &&& s.regs.get r) s
  exact ⟨t, ht, fun k _ => by rw [hres, BitVec.getLsbD_and], hrest⟩

/-- Settles O13: bit by bit, H clear. -/
theorem orIsBitwise : Obligations.OrIsBitwise := by
  intro r s
  rw [exec_ofForm]
  obtain ⟨t, ht, hres, hrest⟩ := logic_completes false (s.regs.get .a ||| s.regs.get r) s
  exact ⟨t, ht, fun k _ => by rw [hres, BitVec.getLsbD_or], hrest⟩

/-- Settles O14: bit by bit, H clear. -/
theorem xorIsBitwise : Obligations.XorIsBitwise := by
  intro r s
  rw [exec_ofForm]
  obtain ⟨t, ht, hres, hrest⟩ := logic_completes false (s.regs.get .a ^^^ s.regs.get r) s
  exact ⟨t, ht, fun k _ => by rw [hres, BitVec.getLsbD_xor], hrest⟩

/-- Settles O15: the sum with 1 is zero exactly from 255. -/
theorem incAddsOneKeepingCarry : Obligations.IncAddsOneKeepingCarry := by
  intro r s
  rw [exec_ofForm]
  have hsum : (sum8 (s.regs.get r) 0x01#8 0).toNat = (num s r + 1) % 256 := sum8_toNat _ _ _
  have hlt : num s r < 256 := (s.regs.get r).isLt
  obtain ⟨t, ht, hres, hfl, hframe, hout⟩ := writeback8_completes r
    (sum8 (s.regs.get r) 0x01#8 0) (incFlags (s.regs.get r) (sum8 (s.regs.get r) 0x01#8 0) s.regs.f) s
  refine ⟨t, ht, ?_, ?_, ?_, ?_, ?_, hframe, hout⟩
  · rw [num, hres, hsum]
  · rw [hfl, incFlags, zero8_iff, hsum]
    omega
  · rw [hfl, incFlags]
  · rw [hfl, incFlags, hcInc8_iff, num]
  · rw [hfl, incFlags]

/-- Settles O16: the difference with 1 is zero exactly from 1. -/
theorem decSubtractsOneKeepingCarry : Obligations.DecSubtractsOneKeepingCarry := by
  intro r s
  rw [exec_ofForm]
  have hdiff : (diff8 (s.regs.get r) 0x01#8 0).toNat = (256 + num s r - 1) % 256 :=
    diff8_toNat _ _ 0 (by omega)
  have hlt : num s r < 256 := (s.regs.get r).isLt
  obtain ⟨t, ht, hres, hfl, hframe, hout⟩ := writeback8_completes r
    (diff8 (s.regs.get r) 0x01#8 0) (decFlags (s.regs.get r) (diff8 (s.regs.get r) 0x01#8 0) s.regs.f) s
  refine ⟨t, ht, ?_, ?_, ?_, ?_, ?_, hframe, hout⟩
  · rw [num, hres, hdiff]
  · rw [hfl, decFlags, zero8_iff, hdiff]
    omega
  · rw [hfl, decFlags]
  · rw [hfl, decFlags, hbDec8_iff, num]
  · rw [hfl, decFlags]

/-- Settles O20: with the carry clear the operands of ADC are those of ADD, and of SBC those of SUB. -/
theorem carryFormsWithoutCarryArePlain : Obligations.CarryFormsWithoutCarryArePlain := by
  intro r s hc
  have hadc : mux8 .adc r s = mux8 .add r s := by simp [mux8, carryIn, hc, bit]
  have hsbc : mux8 .sbc r s = mux8 .sub r s := by simp [mux8, carryIn, hc, bit]
  simp only [exec_ofForm]
  constructor
  · simp only [execForm, adcR, addR, hadc]
  · simp only [execForm, sbcR, subR, hsbc]

/-- Settles O21: both write back the same flags, CP no register. -/
theorem cpIsSubWithoutResult : Obligations.CpIsSubWithoutResult := by
  intro r s
  simp only [exec_ofForm]
  exact ⟨_, _, rfl, rfl, rfl, RegFile.setFlags_get _ _⟩

/-- Settles O22: each reading as a comparison of nibbles, which a full nibble separates. -/
theorem subHalfRulesDifferOnlyAtFullNibble : Obligations.SubHalfRulesDifferOnlyAtFullNibble := by
  intro a b
  have hlt : a.toNat % 16 < 16 := Nat.mod_lt _ (by omega)
  refine ⟨?_, ?_, fun hfull => ⟨?_, ?_⟩⟩
  · rw [Bool.eq_iff_iff, hbSub8_no_borrow_iff, hbSub8_no_borrow_iff]
  · rw [ne_eq, Bool.eq_iff_iff, hbSub8_direct_iff, hbSub8_wrapped_borrow_iff]
    omega
  · rw [hbSub8_direct_iff]
    omega
  · rw [Bool.eq_false_iff, ne_eq, hbSub8_wrapped_borrow_iff]
    exact fun h => h.2 hfull

/-- Settles O23: a nibble is carried into by 1 when it is 15 and borrows for 1 when it is 0. -/
theorem incDecHalfCarryIsThatOfOne : Obligations.IncDecHalfCarryIsThatOfOne := by
  intro v
  have hone : (1#8).toNat = 1 := rfl
  constructor
  · rw [Bool.eq_iff_iff, hcInc8_iff, hcAdd8_iff, hone]
    omega
  · rw [Bool.eq_iff_iff, hbDec8_iff, hbSub8_direct_iff, hone]
    omega

/-- Settles O24: A with itself cancels in the result and in every flag but Z and N. -/
theorem selfOperandsCancel : Obligations.SelfOperandsCancel := by
  intro s
  have hxor := BitVec.xor_self (x := s.regs.get .a)
  have hflags := subFlags_self s.params.subHRule (s.regs.get .a)
  refine ⟨_, _, _, rfl, hxor, ?_, rfl, diff8_self _, ?_, rfl, rfl, ?_⟩
  · exact congrArg (fun res => encodeF (logicFlags false res)) hxor
  · exact congrArg encodeF hflags
  · exact congrArg encodeF hflags

end Sys2Proof.Proofs
end

section
/-! PROOFS, families 10_state.md section 1 and 70_reset_and_hazards.md section 2: what an instruction
writes (R16, R64) and what it depends on (R16, R18, R102). -/

namespace Sys2Proof.Machine

open Sys2Proof.Statements

/-! ### Results and flags as functions of the operands -/

/-- What an 8-bit two-operand instruction computes from its operands. -/
def aluResult (k : AluOp) (o : Operands8) : Byte :=
  match k with
  | .add | .adc => sum8 o.a o.b o.cin
  | .sub | .sbc | .cp => diff8 o.a o.b o.cin
  | .and => o.a &&& o.b
  | .xor => o.a ^^^ o.b
  | .or => o.a ||| o.b

/-- The flags an 8-bit two-operand instruction computes from its operands and the parameters. -/
def aluFlags (p : Config) (k : AluOp) (o : Operands8) : Flags :=
  match k with
  | .add | .adc => addFlags o.a o.b o.cin (aluResult k o)
  | .sub | .sbc | .cp => subFlags p.subHRule o.a o.b o.cin (aluResult k o)
  | .and => logicFlags p.andHValue (aluResult k o)
  | .xor | .or => logicFlags false (aluResult k o)

theorem execForm_op8 {k : AluOp} (hk : k ≠ .cp) (r : R8) (s : State) :
    execForm (.op8 k r) s =
      writeback8 .a (aluResult k (mux8 k r s)) (aluFlags s.params k (mux8 k r s)) s := by
  cases k with
  | cp => exact absurd rfl hk
  | _ => rfl

theorem execForm_cp (r : R8) (s : State) :
    execForm (.op8 .cp r) s = writebackFlags (aluFlags s.params .cp (mux8 .cp r s)) s := rfl

theorem destinations_op8 {k : AluOp} (hk : k ≠ .cp) (r : R8) : destinations (.op8 k r) = [.a] := by
  cases k with
  | cp => exact absurd rfl hk
  | _ => rfl

/-! ### Operands from agreeing sources -/

theorem mux8_congr {k : AluOp} {r : R8} {s₁ s₂ : State}
    (hsrc : ∀ q ∈ sources (.op8 k r), s₁.regs.get q = s₂.regs.get q)
    (hcarry : readsCarry (.op8 k r) → s₁.regs.f.c = s₂.regs.f.c) : mux8 k r s₁ = mux8 k r s₂ := by
  have ha : s₁.regs.get .a = s₂.regs.get .a := hsrc .a (by simp [sources])
  have hr : s₁.regs.get r = s₂.regs.get r := hsrc r (by simp [sources])
  have hcin : carryIn k s₁.regs.f = carryIn k s₂.regs.f := by
    cases k with
    | adc => exact congrArg bit (hcarry ⟨r, .inl rfl⟩)
    | sbc => exact congrArg bit (hcarry ⟨r, .inr rfl⟩)
    | _ => rfl
  rw [mux8, mux8, ha, hr, hcin]

theorem muxHl_congr {p : P16} {s₁ s₂ : State}
    (hsrc : ∀ q ∈ sources (.addHl p), s₁.regs.get q = s₂.regs.get q) : muxHl s₁ = muxHl s₂ := by
  apply congrArg₂ (· ++ ·)
  · exact hsrc .h (by cases p <;> simp [sources])
  · exact hsrc .l (by cases p <;> simp [sources])

theorem muxPair_congr {p : P16} {s₁ s₂ : State}
    (hsrc : ∀ q ∈ sources (.addHl p), s₁.regs.get q = s₂.regs.get q) : muxPair p s₁ = muxPair p s₂ := by
  cases p with
  | bc => exact congrArg₂ (· ++ ·) (hsrc .b (by simp [sources])) (hsrc .c (by simp [sources]))
  | de => exact congrArg₂ (· ++ ·) (hsrc .d (by simp [sources])) (hsrc .e (by simp [sources]))
  | hl => exact congrArg₂ (· ++ ·) (hsrc .h (by simp [sources])) (hsrc .l (by simp [sources]))

end Sys2Proof.Machine

namespace Sys2Proof.Proofs

open Sys2Proof Sys2Proof.Machine Sys2Proof.Statements

/-- Settles O18: each meaning is a writeback, and a writeback names all it writes. -/
theorem onlyDestinationsAreWritten : Obligations.OnlyDestinationsAreWritten := by
  intro i s t h
  rw [exec_eq_execForm] at h
  cases hf : i.form with
  | op8 k r =>
    rw [hf] at h
    by_cases hk : k = .cp
    · subst hk
      obtain ⟨_, hframe, hout⟩ := writebackFlags_next h
      exact ⟨fun q _ => hframe q, hout⟩
    · rw [execForm_op8 hk] at h
      obtain ⟨_, _, hframe, hout⟩ := writeback8_next h
      rw [destinations_op8 hk]
      exact ⟨fun q hq => hframe q (List.ne_of_not_mem_cons hq), hout⟩
  | inc r | dec r =>
    rw [hf] at h
    obtain ⟨_, _, hframe, hout⟩ := writeback8_next h
    exact ⟨fun q hq => hframe q (List.ne_of_not_mem_cons hq), hout⟩
  | addHl p =>
    rw [hf] at h
    obtain ⟨_, _, _, hframe, hout⟩ := writebackHl_next h
    refine ⟨fun q hq => ?_, hout⟩
    obtain ⟨hqh, hql⟩ := List.ne_and_not_mem_of_not_mem_cons hq
    exact hframe q hqh (List.ne_of_not_mem_cons hql)

/-- Settles O19: agreeing sources give agreeing operands, and each result and flag but the kept ones is a
function of the operands and the parameters. -/
theorem resultDependsOnlyOnSources : Obligations.ResultDependsOnlyOnSources := by
  intro i s₁ s₂ t₁ t₂ hsrc hcarry hparams h₁ h₂
  rw [exec_eq_execForm] at h₁ h₂
  cases hf : i.form with
  | op8 k r =>
    rw [hf] at hsrc hcarry h₁ h₂
    have hmux := mux8_congr hsrc hcarry
    by_cases hk : k = .cp
    · subst hk
      rw [execForm_cp] at h₁ h₂
      obtain ⟨hfl₁, _⟩ := writebackFlags_next h₁
      obtain ⟨hfl₂, _⟩ := writebackFlags_next h₂
      have hfl : t₁.regs.f = t₂.regs.f := by rw [hfl₁, hfl₂, hmux, hparams]
      rw [hfl]
      exact ⟨fun q hq => absurd hq List.not_mem_nil, rfl, rfl, fun _ => rfl, fun _ => rfl⟩
    · rw [execForm_op8 hk] at h₁ h₂
      obtain ⟨hres₁, hfl₁, _⟩ := writeback8_next h₁
      obtain ⟨hres₂, hfl₂, _⟩ := writeback8_next h₂
      have hfl : t₁.regs.f = t₂.regs.f := by rw [hfl₁, hfl₂, hmux, hparams]
      rw [destinations_op8 hk, hfl]
      refine ⟨fun q hq => ?_, rfl, rfl, fun _ => rfl, fun _ => rfl⟩
      rw [List.mem_singleton.mp hq, hres₁, hres₂, hmux]
  | inc r | dec r =>
    rw [hf] at hsrc h₁ h₂
    have hmux : muxOne r s₁ = muxOne r s₂ := hsrc r (List.mem_singleton.mpr rfl)
    obtain ⟨hres₁, hfl₁, _⟩ := writeback8_next h₁
    obtain ⟨hres₂, hfl₂, _⟩ := writeback8_next h₂
    rw [hfl₁, hfl₂, hmux]
    refine ⟨fun q hq => ?_, rfl, rfl, fun _ => rfl, fun hkeeps => absurd ⟨r, by simp⟩ hkeeps⟩
    rw [List.mem_singleton.mp hq, hres₁, hres₂, hmux]
  | addHl p =>
    rw [hf] at hsrc h₁ h₂
    have hhl := muxHl_congr hsrc
    have hpair := muxPair_congr hsrc
    obtain ⟨hh₁, hl₁, hfl₁, _⟩ := writebackHl_next h₁
    obtain ⟨hh₂, hl₂, hfl₂, _⟩ := writebackHl_next h₂
    rw [hfl₁, hfl₂, hhl, hpair, hparams]
    refine ⟨fun q hq => ?_, rfl, rfl, fun hz => ?_, fun _ => rfl⟩
    · obtain rfl | hq := List.mem_cons.mp hq
      · rw [hh₁, hh₂, hhl, hpair]
      · rw [List.mem_singleton.mp hq, hl₁, hl₂, hhl, hpair]
    · have hmode := hz.resolve_left fun hne => hne p rfl
      rw [hmode]
      rfl

end Sys2Proof.Proofs
end

section
/-! PROOFS, families 10_state.md sections 3 and 5 and 70_reset_and_hazards.md: pairs, host paths, RESET, and
what one transaction leaves to the next (R23 to R27, R33 to R36, R98, R103). -/

namespace Sys2Proof.Machine

open Sys2Proof.Statements

/-! ### Pairs -/

/-- The packed byte has a clear low nibble (R19). -/
theorem encodeF_toNat_mod (f : Flags) : (encodeF f).toNat % 16 = 0 := by
  rw [encodeF_toNat]
  omega

theorem high_append_low (v : PairWord) : v.extractLsb 15 8 ++ v.extractLsb 7 0 = v := by
  apply BitVec.eq_of_toNat_eq
  rw [append_toNat]
  exact high_mul_add_low v

theorem RegFile.getPair_high (f : RegFile) (p : Pair) : (f.getPair p).extractLsb 15 8 = f.get p.high := by
  apply BitVec.eq_of_toNat_eq
  have := (f.getLow p.low).isLt
  rw [high_toNat, getPair_toNat]
  omega

theorem RegFile.getPair_low (f : RegFile) (p : Pair) : (f.getPair p).extractLsb 7 0 = f.getLow p.low := by
  apply BitVec.eq_of_toNat_eq
  have := (f.getLow p.low).isLt
  rw [low_toNat, getPair_toNat]
  omega

theorem RegFile.setPair_get_high (f : RegFile) (p : Pair) (v : PairWord) :
    (f.setPair p v).get p.high = v.extractLsb 15 8 := by
  rw [setPair_get, if_pos rfl]

theorem Pair.low_ne_high {p : Pair} {r : R8} (h : p.low = .plain r) : r ≠ p.high := by
  rintro rfl
  cases p <;> cases h

theorem RegFile.setPair_get_low (f : RegFile) {p : Pair} {r : R8} (h : p.low = .plain r) (v : PairWord) :
    (f.setPair p v).get r = v.extractLsb 7 0 := by
  rw [setPair_get, if_neg (Pair.low_ne_high h), if_pos h]

theorem RegFile.setPair_f_flags (f : RegFile) {p : Pair} (h : p.low = .flags) (v : PairWord) :
    (f.setPair p v).f = decodeF (v.extractLsb 7 0) := by
  rw [setPair_f, if_pos h]

theorem RegFile.setPair_f_plain (f : RegFile) {p : Pair} {r : R8} (h : p.low = .plain r) (v : PairWord) :
    (f.setPair p v).f = f.f := by
  rw [setPair_f, if_neg (by simp [h])]

theorem Pair.low_eq_flags_iff {p : Pair} : p.low = .flags ↔ p = .af := by cases p <;> decide

/-- Writing back what was read changes nothing (R26). -/
theorem RegFile.setPair_getPair (f : RegFile) (p : Pair) : f.setPair p (f.getPair p) = f := by
  refine RegFile.ext_get (fun q => ?_) ?_
  · rw [setPair_get, getPair_high, getPair_low]
    split
    case isTrue hq => rw [hq]
    case isFalse =>
      split
      case isTrue hq =>
        rw [hq]
        rfl
      case isFalse => rfl
  · rw [setPair_f, getPair_low]
    split
    case isTrue hp =>
      rw [hp]
      exact decodeF_encodeF f.f
    case isFalse => rfl

/-- A plain low slot keeps all the bits of a written pair. -/
theorem RegFile.getPair_setPair_plain (f : RegFile) {p : Pair} {r : R8} (h : p.low = .plain r)
    (v : PairWord) : (f.setPair p v).getPair p = v := by
  rw [getPair, setPair_get_high, h, getLow, setPair_get_low f h, high_append_low]

/-- The flags slot keeps the upper nibble of its byte. -/
theorem RegFile.getPair_setPair_flags (f : RegFile) {p : Pair} (h : p.low = .flags)
    (v : PairWord) : (f.setPair p v).getPair p = v &&& 0xFFF0#16 := by
  rw [getPair, setPair_get_high, h, getLow, setPair_f_flags f h, encodeF_decodeF]
  conv_rhs => rw [← high_append_low v, show 0xFFF0#16 = BitVec.allOnes 8 ++ 0xF0#8 from rfl,
    BitVec.and_append, BitVec.and_allOnes]

/-- The four pairs share no storage. -/
theorem RegFile.getPair_setPair_other (f : RegFile) {p p' : Pair} (h : p' ≠ p) (v : PairWord) :
    (f.setPair p v).getPair p' = f.getPair p' := by
  cases p with
  | af =>
    cases p' with
    | af => exact absurd rfl h
    | _ => rfl
  | bc =>
    cases p' with
    | bc => exact absurd rfl h
    | _ => rfl
  | de =>
    cases p' with
    | de => exact absurd rfl h
    | _ => rfl
  | hl =>
    cases p' with
    | hl => exact absurd rfl h
    | _ => rfl

/-- What a pair reads as after a pair write (R26, R27). -/
theorem RegFile.getPair_setPair (f : RegFile) (p p' : Pair) (v : PairWord) :
    (f.setPair p v).getPair p' =
      if p' ≠ p then f.getPair p' else if p.low = .flags then v &&& 0xFFF0#16 else v := by
  by_cases hne : p' ≠ p
  · rw [if_pos hne, getPair_setPair_other f hne]
  · obtain rfl := not_not.mp hne
    rw [if_neg hne]
    cases hlow : p'.low with
    | flags => rw [if_pos rfl, getPair_setPair_flags f hlow]
    | plain r => rw [if_neg (by simp), getPair_setPair_plain f hlow]

theorem high_eq_ofNat (v : PairWord) : v.extractLsb 15 8 = BitVec.ofNat 8 (v.toNat / 256) := by
  apply BitVec.eq_of_toNat_eq
  have := v.isLt
  rw [high_toNat, BitVec.toNat_ofNat]
  omega

theorem low_eq_ofNat (v : PairWord) : v.extractLsb 7 0 = BitVec.ofNat 8 v.toNat := by
  apply BitVec.eq_of_toNat_eq
  rw [low_toNat, BitVec.toNat_ofNat]

/-! ### Two transactions in a row -/

/-- A second transaction that only answers puts its answer on the output. -/
theorem secondAnswers_of_perform {x y : Transaction} {rest : List Transaction} {s u : State} {r : Reply}
    (hq : s.queue = x :: y :: rest) (hx : perform x { s with queue := y :: rest } = .next u)
    (hy : perform y { u with queue := rest } = replyWith r { u with queue := rest }) : SecondAnswers s r :=
  ⟨_, run_two hq hx (perform_next_queue hx) hy, rfl⟩

/-- A second transaction that executes ends with the register file its instruction leaves (R103). -/
theorem run_two_exec {x : Transaction} {code : Byte} {i : Instr} {rest : List Transaction} {s u : State}
    (hq : s.queue = x :: .exec code :: rest)
    (hx : perform x { s with queue := .exec code :: rest } = .next u) (hd : decode code = some i) :
    ∃ w t, exec i u = .next w ∧ core.run 2 s = .next t ∧ t.regs = w.regs := by
  obtain ⟨f, hu, hu'⟩ := exec_reads_regs_and_params i (s := u) (s' := { u with queue := rest }) rfl rfl
  exact ⟨_, _, hu, run_two hq hx (perform_next_queue hx) (perform_exec_of_exec_next hd hu'), rfl⟩

section SecondTransaction

variable {x : Transaction} {rest : List Transaction} {s u : State}

theorem secondAnswers_readR8 {q : R8} (hq : s.queue = x :: .readR8 q :: rest)
    (hx : perform x { s with queue := .readR8 q :: rest } = .next u) :
    SecondAnswers s (.byte (u.regs.get q)) := secondAnswers_of_perform hq hx rfl

theorem secondAnswers_readF (hq : s.queue = x :: .readF :: rest)
    (hx : perform x { s with queue := .readF :: rest } = .next u) :
    SecondAnswers s (.byte (encodeF u.regs.f)) := secondAnswers_of_perform hq hx rfl

theorem secondAnswers_readPair {p : Pair} (hq : s.queue = x :: .readPair p :: rest)
    (hx : perform x { s with queue := .readPair p :: rest } = .next u) :
    SecondAnswers s (.pair (u.regs.getPair p)) := secondAnswers_of_perform hq hx rfl

end SecondTransaction

/-! ### The host writes -/

theorem perform_writeR8 (r : R8) (v : Byte) (s : State) :
    perform (.writeR8 r v) s = .next { s with regs := s.regs.set r v, reply := .nothing } := rfl

theorem perform_writePair (p : Pair) (v : PairWord) (s : State) :
    perform (.writePair p v) s = .next { s with regs := s.regs.setPair p v, reply := .nothing } := rfl

theorem perform_writeF (b : Byte) (s : State) :
    perform (.writeF b) s = .next { s with regs := s.regs.setFlags (decodeF b), reply := .nothing } := rfl

/-- A pair with a plain low slot as its registers' numbers. -/
theorem RegFile.getPair_plain_toNat (f : RegFile) {p : Pair} {q : R8} (h : p.low = .plain q) :
    (f.getPair p).toNat = (f.get p.high).toNat * 256 + (f.get q).toNat := by
  rw [getPair_toNat, h, getLow]

/-- AF as the numbers of A and of the packed flags. -/
theorem RegFile.getPair_flags_toNat (f : RegFile) {p : Pair} (h : p.low = .flags) :
    (f.getPair p).toNat = (f.get p.high).toNat * 256 + (encodeF f.f).toNat := by
  rw [getPair_toNat, h, getLow]

theorem RegFile.set_get_toNat (f : RegFile) (r q : R8) (v : Byte) :
    ((f.set r v).get q).toNat = if q = r then v.toNat else (f.get q).toNat := by
  rw [set_get, apply_ite BitVec.toNat]

/-- The flags are a slot of AF alone. -/
theorem RegFile.setFlags_getPair_plain (f : RegFile) (fl : Flags) {p : Pair} {q : R8}
    (h : p.low = .plain q) : (f.setFlags fl).getPair p = f.getPair p := by
  rw [getPair, getPair, h, getLow, getLow, setFlags_get, setFlags_get]

end Sys2Proof.Machine

namespace Sys2Proof.Proofs

open Sys2Proof Sys2Proof.Machine Sys2Proof.Statements

/-- Settles O28: the concatenation as a number, for either kind of low slot. -/
theorem readPairConcatenatesSlots : Obligations.ReadPairConcatenatesSlots := by
  intro p s
  refine ⟨s.regs.getPair p, rfl, fun r hr => RegFile.getPair_plain_toNat _ hr, fun hf => ?_⟩
  have hval := s.regs.getPair_flags_toNat hf
  have hnibble := encodeF_toNat_mod s.regs.f
  exact ⟨hval, by omega⟩

/-- Settles O29: each slot as a read sees it after the pair write. -/
theorem writePairFillsBothSlots : Obligations.WritePairFillsBothSlots := by
  intro p v s
  refine ⟨_, perform_writePair p v s, ?_, fun r hr => ⟨?_, ?_, fun q hq => ?_⟩,
    fun hf => ⟨?_, fun q hq => ?_⟩, rfl, rfl, rfl⟩
  · rw [num, RegFile.setPair_get_high, high_toNat]
  · rw [num, RegFile.setPair_get_low _ hr, low_toNat]
  · exact RegFile.setPair_f_plain _ hr v
  · obtain ⟨hqh, hqr⟩ := List.ne_and_not_mem_of_not_mem_cons hq
    rw [RegFile.setPair_get, if_neg hqh, hr, if_neg]
    simpa [eq_comm] using hqr
  · rw [RegFile.setPair_f_flags _ hf, ← low_toNat, BitVec.ofNat_toNat, BitVec.setWidth_eq]
  · rw [RegFile.setPair_get, if_neg (List.ne_of_not_mem_cons hq), hf, if_neg (by simp)]

/-- Settles O30: the table of R23. -/
theorem pairSlotsFollowNames : Obligations.PairSlotsFollowNames :=
  ⟨⟨rfl, rfl⟩, ⟨rfl, rfl⟩, ⟨rfl, rfl⟩, rfl, rfl⟩

/-- Settles O31: only the flags slot of AF drops bits of what is written. -/
theorem pairReadAfterWrite : Obligations.PairReadAfterWrite := by
  intro f p v
  refine ⟨f.setPair_getPair p, fun hp => ?_, f.getPair_setPair_flags rfl v⟩
  cases hlow : p.low with
  | plain r => exact f.getPair_setPair_plain hlow v
  | flags => exact absurd (Pair.low_eq_flags_iff.mp hlow) hp

/-- Settles O32: the reads answer the register and the packed flags. -/
theorem hostReadsChangeNothing : Obligations.HostReadsChangeNothing := by
  intro s
  refine ⟨fun r => ⟨s.regs.get r, rfl, rfl⟩, encodeF s.regs.f, rfl, ?_⟩
  exact encodeFWeighsFlags s.regs.f

/-- Settles O33: reads of the register file after a register and after a flags write. -/
theorem hostWritesChangeOnlyTheirTarget : Obligations.HostWritesChangeOnlyTheirTarget := by
  refine fun s => ⟨fun r v => ?_, fun b => ?_⟩
  · refine ⟨_, perform_writeR8 r v s, RegFile.set_get_self _ r v, fun q hq => ?_, RegFile.set_f _ r v,
      rfl, rfl, rfl⟩
    exact RegFile.set_get_other _ v (List.ne_of_not_mem_cons hq)
  · exact ⟨_, perform_writeF b s, encodeF_decodeF b, fun q _ => RegFile.setFlags_get _ _ q, rfl, rfl, rfl⟩

/-- Settles O37: the register file becomes the reset one. -/
theorem resetTransactionZeroesBlock : Obligations.ResetTransactionZeroesBlock := fun _ =>
  ⟨_, rfl, RegFile.reset_get, rfl, rfl, rfl, rfl, rfl, rfl, rfl⟩

/-- Settles O35: the second transaction is performed on what the first one left. -/
theorem nextTransactionSeesTheOneBefore : Obligations.NextTransactionSeesTheOneBefore := by
  intro x y rest s u hq hx
  refine ⟨?_, ?_, ?_, ?_⟩
  · rintro q rfl
    exact secondAnswers_readR8 hq hx
  · rintro rfl
    exact secondAnswers_readF hq hx
  · rintro p rfl
    exact secondAnswers_readPair hq hx
  · rintro code i rfl hd
    exact run_two_exec hq hx hd

/-- Settles O34: each read answers from the register file the write before it left. -/
theorem writesAreVisibleToTheNextRead : Obligations.WritesAreVisibleToTheNextRead := by
  refine fun rest s => ⟨fun r v => ⟨fun q hq => ?_, fun p q hp hq => ?_, fun p hp hq => ?_, fun hq => ?_⟩,
    fun p v => ⟨fun q hq => ?_, fun p' hq => ?_, fun hq => ?_⟩,
    fun b => ⟨fun hq => ?_, fun p hp hq => ?_, fun p q hp hq => ?_, fun q hq => ?_⟩⟩
  -- After WRITE_R8 (R34).
  · rw [← RegFile.set_get]
    exact (secondAnswers_readR8 hq (perform_writeR8 r v _) :)
  · refine ⟨_, secondAnswers_readPair hq (perform_writeR8 r v _), ?_⟩
    rw [RegFile.getPair_plain_toNat _ hp, RegFile.set_get_toNat, RegFile.set_get_toNat, num, num]
  · refine ⟨_, secondAnswers_readPair hq (perform_writeR8 r v _), ?_⟩
    rw [RegFile.getPair_flags_toNat _ hp, RegFile.set_get_toNat, RegFile.set_f, num]
  · rw [← RegFile.set_f s.regs r v]
    exact (secondAnswers_readF hq (perform_writeR8 r v _) :)
  -- After WRITE_PAIR (R25).
  · rw [← high_eq_ofNat, ← low_eq_ofNat, ← RegFile.setPair_get]
    exact (secondAnswers_readR8 hq (perform_writePair p v _) :)
  · rw [← RegFile.getPair_setPair]
    exact (secondAnswers_readPair hq (perform_writePair p v _) :)
  · rw [← low_eq_ofNat, ← encodeF_decodeF, ← apply_ite encodeF, ← RegFile.setPair_f]
    exact (secondAnswers_readF hq (perform_writePair p v _) :)
  -- After WRITE_F (R36).
  · rw [← encodeF_decodeF]
    exact (secondAnswers_readF hq (perform_writeF b _) :)
  · refine ⟨_, secondAnswers_readPair hq (perform_writeF b _), ?_⟩
    rw [RegFile.getPair_flags_toNat _ hp, RegFile.setFlags_get, RegFile.setFlags_f, encodeF_decodeF, num]
  · rw [← RegFile.setFlags_getPair_plain s.regs (decodeF b) hp]
    exact (secondAnswers_readPair hq (perform_writeF b _) :)
  · rw [← RegFile.setFlags_get s.regs (decodeF b) q]
    exact (secondAnswers_readR8 hq (perform_writeF b _) :)

end Sys2Proof.Proofs
end

section
/-! PROOFS, families 20_memory.md section 5, 40_executor.md section 5, 60_exceptions.md and
70_reset_and_hazards.md section 3: the step, the stream, and runs (R44, R71, R84 to R86, R97, R103). -/

namespace Sys2Proof.Machine

open Sys2Proof.Statements

/-! ### One step -/

/-- What a completed transaction changes: registers, reply and, for EXEC alone, the position. -/
theorem perform_next {x : Transaction} {s t : State} (h : perform x s = .next t) :
    ∃ f r, t = { s with regs := f, pos := s.pos + (if x.isExec = true then 1 else 0), reply := r } := by
  rcases perform_cases x s with ⟨_, _, _, e⟩ | ⟨c, i, f, rfl, _, _, e⟩ | ⟨hx, f, r, e⟩
  · rw [e] at h
    cases h
  · exact ⟨f, .ok, Host.Outcome.next.inj (h.symm.trans e)⟩
  · refine ⟨f, r, ?_⟩
    rw [hx]
    exact Host.Outcome.next.inj (h.symm.trans e)

/-- What a step to a next state can be: idle on an empty stream, or its first transaction completed. -/
theorem step_next_cases {s t : State} (h : step s = .next t) :
    (s.queue = [] ∧ t = s) ∨
    ∃ x rest f r, s.queue = x :: rest ∧
      t = { s with
        regs := f, queue := rest, pos := s.pos + (if x.isExec = true then 1 else 0), reply := r } := by
  cases hq : s.queue with
  | nil => exact .inl ⟨rfl, (Host.Outcome.next.inj ((step_nil hq).symm.trans h)).symm⟩
  | cons x rest =>
    obtain ⟨f, r, ht⟩ := perform_next ((step_cons hq).symm.trans h)
    exact .inr ⟨x, rest, f, r, rfl, ht⟩

/-- A step completes, or stops as unimplemented at an EXEC of a code that does not decode (R85). -/
theorem step_completes_or_faults (s : State) :
    (∃ t, step s = .next t) ∨
    ∃ code rest, s.queue = .exec code :: rest ∧ decode code = none ∧
      step s = .fault (.unimplemented code s.pos s.regs) := by
  cases hq : s.queue with
  | nil => exact .inl ⟨s, step_nil hq⟩
  | cons x rest =>
    rw [step_cons hq]
    rcases perform_cases x { s with queue := rest } with
      ⟨c, rfl, hd, e⟩ | ⟨_, _, _, _, _, _, e⟩ | ⟨_, _, _, e⟩
    · exact .inr ⟨c, rest, rfl, hd, e⟩
    · exact .inl ⟨_, e⟩
    · exact .inl ⟨_, e⟩

theorem State.codesLeft_cons {x : Transaction} {rest : List Transaction} {s : State}
    (h : s.queue = x :: rest) :
    s.codesLeft = rest.countP Transaction.isExec + if x.isExec = true then 1 else 0 := by
  rw [codesLeft, h, List.countP_cons]

/-! ### Runs -/

/-- A run continues from where a completed run ended. -/
theorem run_add {m : Nat} {s t : State} (h : core.run m s = .next t) (k : Nat) :
    core.run (m + k) s = core.run k t := by
  induction m generalizing s with
  | zero =>
    cases h
    rw [Nat.zero_add]
  | succ m ih =>
    rw [Nat.succ_add]
    cases hstep : step s with
    | next u =>
      rw [run_next hstep] at h ⊢
      exact ih h
    | fault e =>
      rw [run_fault hstep] at h
      cases h
    | refused q =>
      rw [run_refused hstep] at h
      cases h

/-- Two EXECs in a row leave the registers of their two instructions in a row (R103). -/
theorem run_two_exec_exec {c d : Byte} {i j : Instr} {rest : List Transaction} {s t₁ t₂ : State}
    (hq : s.queue = .exec c :: .exec d :: rest) (hc : decode c = some i) (hd : decode d = some j)
    (h₁ : exec i s = .next t₁) (h₂ : exec j t₁ = .next t₂) :
    ∃ t, core.run 2 s = .next t ∧ t.regs = t₂.regs := by
  obtain ⟨f, hf, hf'⟩ :=
    exec_reads_regs_and_params i (s := s) (s' := { s with queue := .exec d :: rest }) rfl rfl
  obtain rfl := Host.Outcome.next.inj (h₁.symm.trans hf)
  obtain ⟨w, t, hw, ht, hregs⟩ := run_two_exec hq (perform_exec_of_exec_next hc hf') hd
  obtain ⟨g, hg, hg'⟩ := exec_reads_regs_and_params j (s := { s with regs := f })
    (s' := returnOk { s with queue := .exec d :: rest, regs := f }) rfl rfl
  obtain rfl := Host.Outcome.next.inj (h₂.symm.trans hg)
  obtain rfl := Host.Outcome.next.inj (hw.symm.trans hg')
  exact ⟨t, ht, hregs⟩

theorem num_eq_of_regs_eq {s t : State} (h : t.regs = s.regs) (q : R8) : num t q = num s q := by
  rw [num, num, h]

theorem carryNum_of_iff {s : State} {P : Prop} [Decidable P] (h : s.regs.f.c = true ↔ P) :
    carryNum s = if P then 1 else 0 := if_congr h rfl rfl

theorem num_of_regsSameBut_a {s t : State} {v : Nat} (ha : num t .a = v) (hframe : RegsSameBut [.a] s t)
    (q : R8) : num t q = if q = .a then v else num s q := by
  split
  case isTrue hqa => rw [hqa, ha]
  case isFalse hqa => rw [num, num, hframe q (by simpa using hqa)]

end Sys2Proof.Machine

namespace Sys2Proof.Proofs

open Sys2Proof Sys2Proof.Machine Sys2Proof.Statements

/-- Settles O36: the second instruction's operands are the first one's result, carry and frame. -/
theorem carryChainsFromExecToExec : Obligations.CarryChainsFromExecToExec := by
  intro c d r q rest s hq
  refine ⟨fun hc hd => ?_, fun hc hd => ?_⟩
  · obtain ⟨t₁, h₁, ha, _, _, _, hcarry, hframe, _⟩ := addGivesSumAndFlags r s
    obtain ⟨t₂, h₂, ha₂, _, _, _, hcarry₂, _⟩ := adcAddsCarryIn q t₁
    obtain ⟨t, hrun, hregs⟩ := run_two_exec_exec hq hc hd h₁ h₂
    rw [carryNum_of_iff hcarry, ha, num_of_regsSameBut_a ha hframe q] at ha₂ hcarry₂
    refine ⟨t, hrun, ?_⟩
    rw [num_eq_of_regs_eq hregs, hregs]
    exact ⟨ha₂, hcarry₂⟩
  · obtain ⟨t₁, h₁, ha, _, _, _, hcarry, hframe, _⟩ := subGivesDifferenceAndFlags r s
    obtain ⟨t₂, h₂, ha₂, _, _, _, _, hcarry₂, _⟩ := sbcSubtractsBorrowIn q t₁
    obtain ⟨t, hrun, hregs⟩ := run_two_exec_exec hq hc hd h₁ h₂
    rw [carryNum_of_iff hcarry, ha, num_of_regsSameBut_a ha hframe q] at ha₂ hcarry₂
    refine ⟨t, hrun, ?_⟩
    rw [num_eq_of_regs_eq hregs, hregs]
    exact ⟨ha₂, hcarry₂⟩

/-- Settles O39: EXEC of a decoding code is its instruction, then OK. -/
theorem stepRunsDecodedInstruction : Obligations.StepRunsDecodedInstruction := by
  intro code i rest s hq hd
  obtain ⟨f, hf, h⟩ := performExec_some hd { s with queue := rest }
  exact ⟨_, hf, (step_cons hq).trans h⟩

/-- Settles O40: EXEC of any other code faults at once. -/
theorem unimplementedCodeFaultsUnchanged : Obligations.UnimplementedCodeFaultsUnchanged :=
  fun _ _ _ hq hd => (step_cons hq).trans (performExec_none hd _)

/-- Settles O42: a step that does not complete is the one fault. -/
theorem stepStopsOnlyAsUnimplemented : Obligations.StepStopsOnlyAsUnimplemented := by
  refine ⟨fun s q h => ?_, fun s e h => ?_⟩
  · obtain ⟨t, hnext⟩ | ⟨code, rest, _, _, hfault⟩ := step_completes_or_faults s
    · exact nomatch h.symm.trans hnext
    · exact nomatch h.symm.trans hfault
  · obtain ⟨t, hnext⟩ | ⟨code, rest, hq, hd, hfault⟩ := step_completes_or_faults s
    · exact nomatch h.symm.trans hnext
    · exact ⟨code, rest, hq, hd, Host.Outcome.fault.inj (h.symm.trans hfault)⟩

/-- Settles O43: an empty stream leaves the step to idle. -/
theorem idleKeepsTheState : Obligations.IdleKeepsTheState := fun _ h => step_nil h

/-- Settles O44: the step takes the head of the stream. -/
theorem stepPerformsTheNextTransaction : Obligations.StepPerformsTheNextTransaction :=
  fun _ _ _ h => step_cons h

/-- Settles O45: idling keeps an empty stream, and a completed transaction only leaves the stream. -/
theorem stepTakesOneTransaction : Obligations.StepTakesOneTransaction := by
  intro s t h
  obtain ⟨hq, rfl⟩ | ⟨x, rest, f, r, hq, rfl⟩ := step_next_cases h
  · rw [hq]
    exact ⟨rfl, rfl⟩
  · rw [hq]
    exact ⟨rfl, rfl⟩

/-- Settles O46: a step moves the position by one exactly when it takes an EXEC off the stream. -/
theorem streamPlaceIsInvariant : Obligations.StreamPlaceIsInvariant := by
  intro p n s t ⟨hparams, hpos⟩ h
  obtain ⟨_, rfl⟩ | ⟨x, rest, f, r, hq, rfl⟩ := step_next_cases h
  · exact ⟨hparams, hpos⟩
  · refine ⟨hparams, ?_⟩
    rw [State.codesLeft_cons hq] at hpos
    rw [State.codesLeft]
    dsimp only
    omega

/-- Settles O47: the reset stream is empty. -/
theorem streamPlaceHoldsAtReset : Obligations.StreamPlaceHoldsAtReset :=
  ⟨⟨rfl, rfl⟩, fun _ hx => absurd hx List.not_mem_nil⟩

/-- Settles O48: the only fault needs a code that is not safe, and the tail of a safe stream is safe. -/
theorem safeStreamNeverStops : Obligations.SafeStreamNeverStops := by
  intro s hsafe
  obtain ⟨t, hnext⟩ | ⟨code, rest, hq, hd, _⟩ := step_completes_or_faults s
  · obtain ⟨hqueue, _⟩ := stepTakesOneTransaction s t hnext
    refine ⟨t, hnext, fun x hx => hsafe x ?_⟩
    rw [hqueue] at hx
    exact List.mem_of_mem_tail hx
  · have hcode := hsafe (.exec code) (hq ▸ List.mem_cons_self)
    rw [Transaction.safe, hd] at hcode
    cases hcode

/-- Settles O49, by induction on the codes. -/
theorem runOfInScopeCodesEnds : Obligations.RunOfInScopeCodesEnds := by
  intro codes rest s hdecodes hq
  induction codes generalizing s with
  | nil => exact ⟨s, run_zero s, hq, rfl, rfl⟩
  | cons c codes ih =>
    obtain ⟨i, hi⟩ := Option.ne_none_iff_exists'.mp (hdecodes c List.mem_cons_self)
    obtain ⟨u, _, hstep⟩ := stepRunsDecodedInstruction c i _ s hq hi
    obtain ⟨hqueue, hparams⟩ := stepTakesOneTransaction s _ hstep
    obtain ⟨t, hrun, htqueue, htpos, htparams⟩ :=
      ih _ (fun c' hc' => hdecodes c' (List.mem_cons_of_mem c hc')) (hqueue.trans (congrArg List.tail hq))
    refine ⟨t, (run_next hstep _).trans hrun, htqueue, ?_, htparams.trans hparams⟩
    rw [htpos, List.length_cons]
    dsimp only
    omega

/-- Settles O50: the run over the decoding codes ends before the other one, whose fault ends every longer
run. -/
theorem runStopsAtFirstUnimplemented : Obligations.RunStopsAtFirstUnimplemented := by
  intro codes bad rest s hdecodes hbad hq
  obtain ⟨t, hrun, htqueue, htpos, _⟩ := runOfInScopeCodesEnds codes _ s hdecodes hq
  refine ⟨t, hrun, fun k => ?_⟩
  have hfault := unimplementedCodeFaultsUnchanged bad rest t htqueue hbad
  rw [Nat.add_assoc, run_add hrun, Nat.add_comm 1 k, run_fault hfault, htpos]

/-- Settles O51: the word is the instruction's code, and taking it off gives back the state. -/
theorem fetchWordRunsThatInstruction : Obligations.FetchWordRunsThatInstruction := by
  intro i s
  refine stepRunsDecodedInstruction (encode i) i s.queue (s.withFetchWord 8 (encode i).toNat) ?_
    (decode_encode i)
  rw [State.withFetchWord_queue, tableCode_toNat]

end Sys2Proof.Proofs
end
